-- ==== Sys2Proof/Word.lean ====
section
/-! DEFINITION. The word types of DHRF-CODEC: every register and byte is an unsigned bit pattern (spec 00_scope.md R7, R8). -/

namespace Sys2Proof

/-- A byte: the only width of a bus access (R60) and of a frame element. -/
abbrev Byte := BitVec 8

/-- A 16-bit value: the CRC accumulator and D_RSSI (R20). -/
abbrev Half := BitVec 16

/-- A 32-bit value: the HeaterAddress (R20, R25). -/
abbrev Word := BitVec 32

/-- A register offset: 7 bits, 0x00 to 0x7F (R60, R61). -/
abbrev Offset := BitVec 7

end Sys2Proof
end

