-- ==== Sys2Proof/Syntax.lean ====
section
/-! DEFINITION. The commands of DHRF-CODEC, one constructor per row of spec/opcode_table.json (30_encoding.md R93). -/

namespace Sys2Proof

/-- A command of the block. No command carries an operand: operands are implicit registers (R90, R91). The eighth value
of the spec's command decoder, ILLEGAL, has no opcode and no table row: it is `Command.illegal` (Decode.lean). -/
inductive Instr where
  /-- NOP, byte 0x00 (R180). -/
  | nop
  /-- CRC_INIT, byte 0x01 (R113). -/
  | crcInit
  /-- CRC_UPDATE, byte 0x02 (R114). -/
  | crcUpdate
  /-- ENCODE, byte 0x10 (R131). -/
  | encode
  /-- DECODE, byte 0x20 (R152). -/
  | decode
  /-- CLR_ERR, byte 0x30 (R181). -/
  | clrErr
  /-- SRST, byte 0xFF (R182). -/
  | srst
deriving DecidableEq, Repr

end Sys2Proof
end

