-- ==== Sys2Proof/WellFormed.lean ====
section
/-! DEFINITION. Well-formedness of commands and of the bytes that carry them (30_encoding.md R90, R91). -/

namespace Sys2Proof

/-- A command is well-formed when its fields are in range. Every command of this block is: "The byte has no register,
immediate or mode fields" (R90), so there is no field to check. -/
def Instr.wellFormed : Instr → Bool
  | .nop => true
  | .crcInit => true
  | .crcUpdate => true
  | .encode => true
  | .decode => true
  | .clrErr => true
  | .srst => true

/-- The one check that an encoding can fail before its opcode is looked at: a command is carried by exactly one byte,
"it is always 1 byte" (R90). -/
def carriesOneCommand : List Byte → Bool
  | [_] => true
  | _ => false

end Sys2Proof
end

