-- ==== Sys2Proof/Decode.lean ====
section
/-! DEFINITION. The command decoder, total on all 256 byte values, and the encoder (30_encoding.md R90, R93, R94, R96). -/

namespace Sys2Proof

/-- What a byte written to CMD selects: one of the seven commands of the table, or ILLEGAL (R96: eight outcomes). -/
inductive Command where
  /-- An opcode of the table of R93. -/
  | assigned (i : Instr)
  /-- One of the 249 unassigned bytes (R94, R183). The byte itself is not recorded (R183). -/
  | illegal
deriving DecidableEq, Repr

/-- The instruction a command stands for, none for ILLEGAL. -/
def Command.instr? : Command → Option Instr
  | .assigned i => some i
  | .illegal => none

/-- The command decoder, in the order of `Execute` (R93). It reads the byte alone (R96). -/
def decodeCommand (v : Byte) : Command :=
  if v = 0x00 then .assigned .nop
  else if v = 0x01 then .assigned .crcInit
  else if v = 0x02 then .assigned .crcUpdate
  else if v = 0x10 then .assigned .encode
  else if v = 0x20 then .assigned .decode
  else if v = 0x30 then .assigned .clrErr
  else if v = 0xFF then .assigned .srst
  else .illegal

/-- The decoder on any list of bytes: the first command and the bytes after it; none for no bytes (R90: one byte each). -/
def decodeBytes : List Byte → Option (Command × List Byte)
  | [] => none
  | b :: rest => some (decodeCommand b, rest)

/-- The opcode byte of a command (the table of R93). -/
def encode : Instr → Byte
  | .nop => 0x00
  | .crcInit => 0x01
  | .crcUpdate => 0x02
  | .encode => 0x10
  | .decode => 0x20
  | .clrErr => 0x30
  | .srst => 0xFF

/-- The bytes that carry a command: its opcode alone (R90). -/
def encodeBytes (i : Instr) : List Byte :=
  [encode i]

/-- The command byte that a table word of `nbits` bits stands for: its low byte, the bits from `nbits` up taken as 0. -/
def tableWordByte (nbits w : Nat) : Byte :=
  BitVec.ofNat 8 (w % 2 ^ nbits)

/-- What the decoder reads from an opcode-table word (the host's question): none where it answers ILLEGAL. -/
def decodeTableWord (nbits w : Nat) : Option Instr :=
  (decodeCommand (tableWordByte nbits w)).instr?

end Sys2Proof
end

