-- ==== Sys2Proof/Config.lean ====
section
/-! DEFINITION. The fixed parameters of the block (00_scope.md R6) and its one free value (70_reset_and_hazards.md R232). -/

namespace Sys2Proof

/-- CRC initial value (R6). -/
def Config.crcInit : Half := 0xFFFF

/-- CRC polynomial, reflected form (R6). -/
def Config.crcPoly : Half := 0xA001

/-- The CommandFrame's length byte: a constant, never computed (R6, R130). -/
def Config.frameLengthByte : Byte := 0x09

/-- The CommandFrame's pad byte at offset 9 (R130). -/
def Config.framePad : Byte := 0x00

/-- The auto-mode selector value of status byte 14 (R6, R159). -/
def Config.autoMode : Byte := 0x32

/-- Twice the RSSI offset of 74 dBm, in the half-dBm units of D_RSSI (R6, R158). -/
def Config.rssiOffsetHalfDbm : Half := 148

/-- FREE VALUE (DESIGN CHOICE, notes/assumptions/4.md; safe within one run). The byte returned by a read that overlaps hardware reset: "a
free draw" (R232), "under no law" (93_implementation_defined.md U3). The argument is the number of the draw. It has no body.
The function is one for all instances of the block and all runs: draws of one number are tied to each other, which is unsafe for
a claim that compares them (DESIGN CHOICE, notes/assumptions/18.md). -/
opaque Config.freeByte : Nat → Byte

end Sys2Proof
end

