-- ==== Sys2Proof/Machine/State.lean ====
section
/-! DEFINITION. The state of DHRF-CODEC as plain data, its reset value, and the reasons a step can stop (10_state.md). -/

namespace Sys2Proof.Machine

open Sys2Proof

/-- STATUS: five flags; bits 7 to 5 have no storage and read as 0 (R20, R28). -/
structure Status where
  /-- Bit 0, DVALID: the D_ registers hold the fields of a StatusFrame that passed its CRC check. -/
  dvalid : Bool
  /-- Bit 1, CRCERR: the last DECODE found a CRC mismatch. -/
  crcerr : Bool
  /-- Bit 2, DAUTO: decoded autoMode. -/
  dauto : Bool
  /-- Bit 3, TXVALID: TXB holds a CommandFrame built by ENCODE. -/
  txvalid : Bool
  /-- Bit 4, ILLCMD: an unassigned command byte was written since the last clear (sticky). -/
  illcmd : Bool
deriving DecidableEq, Repr

/-- The decoded status registers (R30 to R39). -/
structure Decoded where
  /-- D_STATE (R30). -/
  state : Byte
  /-- D_POWER (R31). -/
  power : Byte
  /-- D_VOLT10 (R32). -/
  volt10 : Byte
  /-- D_AMBIENT (R33). -/
  ambient : Byte
  /-- D_CASE (R34). -/
  caseTemp : Byte
  /-- D_SETPOINT (R35). -/
  setpoint : Byte
  /-- D_MODE (R36). -/
  mode : Byte
  /-- D_PUMP10 (R37). -/
  pump10 : Byte
  /-- D_LQRAW (R38). -/
  lqraw : Byte
  /-- D_RSSI, in half-dBm, two's complement (R39). -/
  rssi : Half
deriving DecidableEq, Repr

/-- The complete architectural state of the block: the tuple of R20, "and nothing else". -/
structure Regs where
  /-- CRC accumulator (R21). -/
  crc : Half
  /-- Data operand of CRC_UPDATE (R22). -/
  arg : Byte
  /-- commandCode operand of ENCODE (R23). -/
  code : Byte
  /-- sequence operand of ENCODE (R24). -/
  seq : Byte
  /-- HeaterAddress operand of ENCODE (R25). -/
  addr : Word
  /-- CommandFrame buffer, written by ENCODE (R26). -/
  txb : Vector Byte 10
  /-- StatusFrame buffer, read by DECODE (R27). -/
  rxb : Vector Byte 24
  /-- Status flags (R28). -/
  status : Status
  /-- Decoded status registers (R30 to R39). -/
  decoded : Decoded
deriving DecidableEq, Repr

/-- A bus transaction: the two kinds of R60. -/
inductive Txn where
  /-- `BusRead(off)` (R62). -/
  | read (off : Offset)
  /-- `BusWrite(off, v)` (R63). -/
  | write (off : Offset) (v : Byte)
deriving DecidableEq, Repr

/-- What the outside world does to the block in one step (R14, R60, R230, R232). -/
inductive Event where
  /-- A completed bus transaction. -/
  | bus (t : Txn)
  /-- Hardware reset, "a step of its own, between bus transactions" (R232). -/
  | reset
  /-- Hardware reset asserted during a bus transaction (R232). -/
  | resetDuring (t : Txn)
deriving DecidableEq, Repr

/-- The machine: the block's registers, and the model's own record of what stands at its port. The block has no program
counter and fetches nothing (R41): its steps are driven by the host's transactions, held here in the order they are
issued (R73). The last three fields are the MODEL's, not the spec's (notes/assumptions/1.md, 3.md, 4.md). -/
structure State where
  /-- The architectural state of R20. -/
  regs : Regs
  /-- What the outside world will do, in order: the next step takes the head. -/
  pending : List Event
  /-- The bytes that reads have returned so far (bus_rdata of R78), oldest first. -/
  reads : List Byte
  /-- How many free bytes have been drawn (R232). -/
  draws : Nat
deriving DecidableEq, Repr

/-- No reason to stop with a fault exists: "The block has no synchronous exception, trap or fault" (R200), and every
transaction "yields exactly one successor state". The type has no constructor, so no meaning can raise one. -/
inductive Fault where
deriving DecidableEq, Repr

/-- Reasons to give an instruction no meaning. -/
inductive Refusal where
  /-- Raised by no step of this model: every command of the table has its meaning. It would be raised by `exec` for a
  command not modelled yet, and is safe (the model stops where the hardware goes on). -/
  | notModelled (mnemonic : String)
deriving DecidableEq, Repr

/-- STATUS after reset: 0x00 (R28, R44). -/
def Status.reset : Status :=
  { dvalid := false, crcerr := false, dauto := false, txvalid := false, illcmd := false }

/-- The D_ registers after reset (R44), and after a DECODE that fails (R152): all zero. -/
def Decoded.zero : Decoded :=
  { state := 0, power := 0, volt10 := 0, ambient := 0, caseTemp := 0, setpoint := 0, mode := 0, pump10 := 0,
    lqraw := 0, rssi := 0 }

/-- Every register at its reset value (the table of R44). -/
def Regs.reset : Regs :=
  { crc := 0xFFFF, arg := 0, code := 0, seq := 0, addr := 0, txb := Vector.replicate 10 0,
    rxb := Vector.replicate 24 0, status := Status.reset, decoded := Decoded.zero }

/-- The machine right after reset: the registers as R44 says, and, of the model's own fields, no event waiting, no byte
read and no free byte drawn (DESIGN CHOICE, notes/assumptions/1.md, 3.md, 4.md). -/
def State.reset : State :=
  { regs := Regs.reset, pending := [], reads := [], draws := 0 }

end Sys2Proof.Machine
end

