-- ==== Sys2Proof/Machine/Checksum.lean ====
section
/-! DEFINITION. The CRC-16/MODBUS function: its bit loop, its byte step, its fold over a byte sequence and the table form of
the step (40_crc.md R110 to R112, R115). -/

namespace Sys2Proof.Machine

open Sys2Proof

/-- One iteration of the loop of R111: shift right, and fold the polynomial in when bit 0 was 1. -/
def crcShift (c : Half) : Half :=
  if c.getLsbD 0 then (c >>> 1) ^^^ Config.crcPoly else c >>> 1

/-- `n` iterations of the loop of R111. -/
def crcShifts : Nat → Half → Half
  | 0, c => c
  | n + 1, c => crcShifts n (crcShift c)

/-- `crc_step(c, b)`: the byte enters the low 8 bits, then one iteration per input bit, LSB first (R111). -/
def crcStep (c : Half) (b : Byte) : Half :=
  crcShifts 8 (c ^^^ b.zeroExtend 16)

/-- `crc16(m)`: a left fold of the step from 0xFFFF; no final XOR (R112). -/
def crc16 (m : List Byte) : Half :=
  m.foldl crcStep Config.crcInit

/-- `T[i]`, the entry of the lookup table (R115). -/
def crcTable (i : Byte) : Half :=
  crcStep 0 i

/-- The table form of the step (R115). The loop, `crcStep`, is the normative one and the one the commands use. -/
def crcStepByTable (c : Half) (b : Byte) : Half :=
  (c >>> 8) ^^^ crcTable ((c ^^^ b.zeroExtend 16).setWidth 8)

end Sys2Proof.Machine
end

