-- ==== Sys2Proof/Machine/Flags.lean ====
section
/-! DEFINITION. The STATUS flags: the byte the host reads and every flag update a command makes (10_state.md R28). An error
condition "sets a STATUS flag and nothing else" (60_exceptions.md R200): these updates are all the error reporting there is. -/

namespace Sys2Proof.Machine

open Sys2Proof

/-- The byte a read of STATUS returns: `{0b000, ILLCMD, TXVALID, DAUTO, CRCERR, DVALID}` (R28, R62). -/
def statusByte (f : Status) : Byte :=
  0b000#3 ++ (BitVec.ofBool f.illcmd ++ (BitVec.ofBool f.txvalid ++
    (BitVec.ofBool f.dauto ++ (BitVec.ofBool f.crcerr ++ BitVec.ofBool f.dvalid))))

/-- ENCODE's flag update: TXVALID is set, the others are unchanged (R131). -/
def flagEncoded (f : Status) : Status :=
  { f with txvalid := true }

/-- DECODE's flag update on success, with the decoded autoMode (R152): TXVALID and ILLCMD are unchanged. -/
def flagDecoded (auto : Bool) (f : Status) : Status :=
  { f with dvalid := true, crcerr := false, dauto := auto }

/-- DECODE's flag update on a checksum failure (R152, R201): TXVALID and ILLCMD are unchanged. -/
def flagChecksumFailure (f : Status) : Status :=
  { f with dvalid := false, crcerr := true, dauto := false }

/-- CLR_ERR's flag update: ILLCMD and CRCERR are cleared, the others are unchanged (R181). -/
def flagErrorsCleared (f : Status) : Status :=
  { f with crcerr := false, illcmd := false }

/-- The report of an illegal command: ILLCMD is set, the others are unchanged (R183, R202). -/
def flagIllegalCommand (f : Status) : Status :=
  { f with illcmd := true }

end Sys2Proof.Machine
end

