-- ==== Sys2Proof/Machine/Operands.lean ====
section
/-! DEFINITION. How operands are assembled from registers and how a byte is read as a number (00_scope.md R8, 30_encoding.md
R92, 20_memory.md R67, R68). No other operand form exists: the command byte carries none (R91). -/

namespace Sys2Proof.Machine

open Sys2Proof

/-- `v[15:8]`, the more significant byte of a 16-bit value (R68: at the lower offset). -/
def highByte (v : Half) : Byte := v.extractLsb' 8 8

/-- `v[7:0]`, the less significant byte of a 16-bit value. -/
def lowByte (v : Half) : Byte := v.extractLsb' 0 8

/-- `{h, l}`, big-endian (R67, R68). -/
def joinBytes (h l : Byte) : Half := h ++ l

/-- `a[31:24]` (ADDR3, R25). -/
def addrByte3 (a : Word) : Byte := a.extractLsb' 24 8

/-- `a[23:16]` (ADDR2, R25). -/
def addrByte2 (a : Word) : Byte := a.extractLsb' 16 8

/-- `a[15:8]` (ADDR1, R25). -/
def addrByte1 (a : Word) : Byte := a.extractLsb' 8 8

/-- `a[7:0]` (ADDR0, R25). -/
def addrByte0 (a : Word) : Byte := a.extractLsb' 0 8

/-- The seven CommandFrame bytes that the CRC covers, offsets 0 to 6 (R130). -/
def commandHeader (r : Regs) : List Byte :=
  [Config.frameLengthByte, r.code, addrByte3 r.addr, addrByte2 r.addr, addrByte1 r.addr, addrByte0 r.addr, r.seq]

/-- The nineteen StatusFrame bytes that the CRC covers, offsets 0 to 18 (R151). -/
def statusCovered (rxb : Vector Byte 24) : List Byte :=
  rxb.toList.take 19

/-- The received CRC of a StatusFrame, `{RXB[19], RXB[20]}` (R92, R151). -/
def receivedCrc (rxb : Vector Byte 24) : Half :=
  joinBytes rxb[19] rxb[20]

/-- `u8(b)`, the unsigned integer value of a byte (R8). -/
def u8 (b : Byte) : Int := b.toNat

/-- `s8(b)`, the source's "signed-interpret": values of 128 and more are negative by subtracting 256 (R8). -/
def s8 (b : Byte) : Int :=
  if b.toNat < 128 then b.toNat else (b.toNat : Int) - 256

/-- `s16(v)`, a 16-bit pattern read as two's complement (R158). -/
def s16 (v : Half) : Int := v.toInt

end Sys2Proof.Machine
end

