-- ==== Sys2Proof/Machine/Ops.lean ====
section
/-! DEFINITION. The named operations over the registers: field updates, the offset map, and the bus's read and write of a
register (20_memory.md R61 to R66). The block has no memory apart from this offset space (10_state.md R43), and no exception
to take or to return from (60_exceptions.md R200, R207, R208): error reports are the flag updates of Flags.lean. -/

namespace Sys2Proof.Machine

open Sys2Proof

/-- `reg[CRC] <- v` (R9). -/
def Regs.setCrc (r : Regs) (v : Half) : Regs := { r with crc := v }

/-- `reg[ARG] <- v` (R9). -/
def Regs.setArg (r : Regs) (v : Byte) : Regs := { r with arg := v }

/-- `reg[CODE] <- v` (R9). -/
def Regs.setCode (r : Regs) (v : Byte) : Regs := { r with code := v }

/-- `reg[SEQ] <- v` (R9). -/
def Regs.setSeq (r : Regs) (v : Byte) : Regs := { r with seq := v }

/-- `reg[ADDR] <- v` (R9). -/
def Regs.setAddr (r : Regs) (v : Word) : Regs := { r with addr := v }

/-- Every byte of TXB at once (R131). -/
def Regs.setTxb (r : Regs) (v : Vector Byte 10) : Regs := { r with txb := v }

/-- Every byte of RXB at once. -/
def Regs.setRxb (r : Regs) (v : Vector Byte 24) : Regs := { r with rxb := v }

/-- STATUS, by the commands only (R28). -/
def Regs.setStatus (r : Regs) (v : Status) : Regs := { r with status := v }

/-- The D_ registers, all in one write (R14, Commit). -/
def Regs.setDecoded (r : Regs) (v : Decoded) : Regs := { r with decoded := v }

/-- The machine with its registers replaced. -/
def State.withRegs (s : State) (r : Regs) : State := { s with regs := r }

/-- The machine with the events still to come replaced. -/
def State.withPending (s : State) (es : List Event) : State := { s with pending := es }

/-- A read has completed and returned `b` (R62, R78). -/
def State.pushRead (s : State) (b : Byte) : State := { s with reads := s.reads ++ [b] }

/-- A read has returned an unspecified byte: a free value, fresh in this machine's run (R232). DESIGN CHOICE
(notes/assumptions/18.md): machines whose counters are equal draw the same byte. -/
def State.pushFreeRead (s : State) : State :=
  { s with reads := s.reads ++ [Config.freeByte s.draws], draws := s.draws + 1 }

/-- A command that completes in its step with the register effect `f` (R71, R93). -/
def complete (f : Regs → Regs) (s : State) : Host.Outcome State Fault Refusal :=
  .next (s.withRegs (f s.regs))

/-- What stands at an offset (R64). -/
inductive Slot where
  | cmd | arg | status | crcHi | crcLo | code | seq | addr3 | addr2 | addr1 | addr0
  | txb (i : Fin 10) | rxb (i : Fin 24)
  | dState | dPower | dVolt10 | dAmbient | dCase | dSetpoint | dMode | dPump10 | dLqraw | dRssiHi | dRssiLo
  | reserved
deriving DecidableEq, Repr

/-- The offset map (R64), with the offsets in the order of `BusRead` (R62). -/
def slotAt (off : Offset) : Slot :=
  if off = 0x00 then .cmd
  else if off = 0x01 then .arg
  else if off = 0x02 then .status
  else if off = 0x04 then .crcHi
  else if off = 0x05 then .crcLo
  else if off = 0x06 then .code
  else if off = 0x07 then .seq
  else if off = 0x08 then .addr3
  else if off = 0x09 then .addr2
  else if off = 0x0A then .addr1
  else if off = 0x0B then .addr0
  else if h : 0x10 ≤ off.toNat ∧ off.toNat ≤ 0x19 then .txb ⟨off.toNat - 0x10, by omega⟩
  else if h : 0x20 ≤ off.toNat ∧ off.toNat ≤ 0x37 then .rxb ⟨off.toNat - 0x20, by omega⟩
  else if off = 0x40 then .dState
  else if off = 0x41 then .dPower
  else if off = 0x42 then .dVolt10
  else if off = 0x43 then .dAmbient
  else if off = 0x44 then .dCase
  else if off = 0x45 then .dSetpoint
  else if off = 0x46 then .dMode
  else if off = 0x47 then .dPump10
  else if off = 0x48 then .dLqraw
  else if off = 0x49 then .dRssiHi
  else if off = 0x4A then .dRssiLo
  else .reserved

/-- The byte a read of a slot returns: CMD has no storage and reads 0x00 (R40), a reserved offset reads 0x00 (R66). -/
def readSlot (r : Regs) : Slot → Byte
  | .cmd => 0x00
  | .arg => r.arg
  | .status => statusByte r.status
  | .crcHi => highByte r.crc
  | .crcLo => lowByte r.crc
  | .code => r.code
  | .seq => r.seq
  | .addr3 => addrByte3 r.addr
  | .addr2 => addrByte2 r.addr
  | .addr1 => addrByte1 r.addr
  | .addr0 => addrByte0 r.addr
  | .txb i => r.txb[i]
  | .rxb i => r.rxb[i]
  | .dState => r.decoded.state
  | .dPower => r.decoded.power
  | .dVolt10 => r.decoded.volt10
  | .dAmbient => r.decoded.ambient
  | .dCase => r.decoded.caseTemp
  | .dSetpoint => r.decoded.setpoint
  | .dMode => r.decoded.mode
  | .dPump10 => r.decoded.pump10
  | .dLqraw => r.decoded.lqraw
  | .dRssiHi => highByte r.decoded.rssi
  | .dRssiLo => lowByte r.decoded.rssi
  | .reserved => 0x00

/-- The registers after a byte is stored in a slot: a read/write slot takes exactly that byte (R63); a read-only or
reserved slot ignores it and no flag is set (R65, R66); CMD stores nothing (R40), its command being run by `busWrite`. -/
def writeSlot (r : Regs) (v : Byte) : Slot → Regs
  | .cmd => r
  | .arg => r.setArg v
  | .status => r
  | .crcHi => r.setCrc (joinBytes v (lowByte r.crc))
  | .crcLo => r.setCrc (joinBytes (highByte r.crc) v)
  | .code => r.setCode v
  | .seq => r.setSeq v
  | .addr3 => r.setAddr (v ++ r.addr.extractLsb' 0 24)
  | .addr2 => r.setAddr (r.addr.extractLsb' 24 8 ++ (v ++ r.addr.extractLsb' 0 16))
  | .addr1 => r.setAddr (r.addr.extractLsb' 16 16 ++ (v ++ r.addr.extractLsb' 0 8))
  | .addr0 => r.setAddr (r.addr.extractLsb' 8 24 ++ v)
  | .txb _ => r
  | .rxb i => r.setRxb (r.rxb.set i v)
  | .dState => r
  | .dPower => r
  | .dVolt10 => r
  | .dAmbient => r
  | .dCase => r
  | .dSetpoint => r
  | .dMode => r
  | .dPump10 => r
  | .dLqraw => r
  | .dRssiHi => r
  | .dRssiLo => r
  | .reserved => r

/-- `BusRead(off)`: the byte returned. It takes registers and gives no registers: no read has a side effect (R62). -/
def busRead (r : Regs) (off : Offset) : Byte :=
  readSlot r (slotAt off)

/-- The register effect of `BusWrite(off, v)` at every offset but CMD's (R63). -/
def storeByte (r : Regs) (off : Offset) (v : Byte) : Regs :=
  writeSlot r v (slotAt off)

end Sys2Proof.Machine
end

