-- ==== Sys2Proof/Machine/CommandFrame.lean ====
section
/-! DEFINITION. ENCODE: the command frame marshaller (41_encode.md R130, R131). -/

namespace Sys2Proof.Machine

open Sys2Proof

/-- The CRC that ENCODE computes, over frame bytes 0 to 6 and from 0xFFFF (R131). -/
def commandCrc (r : Regs) : Half :=
  crc16 (commandHeader r)

/-- The ten bytes of the CommandFrame, by offset; the address and the CRC are big-endian (R130, R67). -/
def commandFrame (r : Regs) : Vector Byte 10 :=
  #v[Config.frameLengthByte, r.code, addrByte3 r.addr, addrByte2 r.addr, addrByte1 r.addr, addrByte0 r.addr, r.seq,
    highByte (commandCrc r), lowByte (commandCrc r), Config.framePad]

/-- ENCODE: TXB takes the frame, CRC the frame's CRC, and TXVALID is set; CODE, ADDR and SEQ are left as they are (R131). -/
def execEncode (s : State) : Host.Outcome State Fault Refusal :=
  complete (fun r => ((r.setTxb (commandFrame r)).setCrc (commandCrc r)).setStatus (flagEncoded r.status)) s

end Sys2Proof.Machine
end

