-- ==== Sys2Proof/Machine/Control.lean ====
section
/-! DEFINITION. The control commands NOP, CLR_ERR and SRST, and the response to an illegal byte (43_control.md R180 to R183). -/

namespace Sys2Proof.Machine

open Sys2Proof

/-- NOP: no state changes (R180). -/
def execNop (s : State) : Host.Outcome State Fault Refusal :=
  complete (fun r => r) s

/-- CLR_ERR: ILLCMD and CRCERR are cleared (R181). -/
def execClrErr (s : State) : Host.Outcome State Fault Refusal :=
  complete (fun r => r.setStatus (flagErrorsCleared r.status)) s

/-- SRST: every register takes its reset value (R182, R44). The model's record of the port is the host's and stays
(notes/assumptions/5.md). -/
def execSrst (s : State) : Host.Outcome State Fault Refusal :=
  complete (fun _ => Regs.reset) s

/-- ILLEGAL: ILLCMD is set and nothing else changes (R183, R94, R202). It is no row of the table, so no arm of `exec`:
`execute` calls it. -/
def execIllegal (s : State) : Host.Outcome State Fault Refusal :=
  complete (fun r => r.setStatus (flagIllegalCommand r.status)) s

end Sys2Proof.Machine
end

