-- ==== Sys2Proof/Machine/Crc.lean ====
section
/-! DEFINITION. The CRC family: CRC_INIT and CRC_UPDATE (40_crc.md R113, R114). -/

namespace Sys2Proof.Machine

open Sys2Proof

/-- CRC_INIT: CRC becomes 0xFFFF; no flag changes (R113). -/
def execCrcInit (s : State) : Host.Outcome State Fault Refusal :=
  complete (fun r => r.setCrc Config.crcInit) s

/-- CRC_UPDATE: the byte in ARG is folded into CRC; ARG is not consumed and no flag changes (R114). -/
def execCrcUpdate (s : State) : Host.Outcome State Fault Refusal :=
  complete (fun r => r.setCrc (crcStep r.crc r.arg)) s

end Sys2Proof.Machine
end

