-- ==== Sys2Proof/Machine/StatusFrame.lean ====
section
/-! DEFINITION. DECODE: the status frame check and decoder (42_decode.md R150 to R159). -/

namespace Sys2Proof.Machine

open Sys2Proof

/-- The CRC that DECODE computes, over frame bytes 0 to 18 and from 0xFFFF (R152). -/
def statusCrc (rxb : Vector Byte 24) : Half :=
  crc16 (statusCovered rxb)

/-- `crc_ok(RXB)`: the computed CRC equals the received one in all 16 bits (R151); nothing else is checked (R162). -/
def crcOk (rxb : Vector Byte 24) : Bool :=
  statusCrc rxb == receivedCrc rxb

/-- D_RSSI of the link-quality byte: `(sext_16(b) - 148) mod 2^16` half-dBm (R158). -/
def rssiOf (b : Byte) : Half :=
  b.signExtend 16 - Config.rssiOffsetHalfDbm

/-- The decoded fields of a frame (R152, R154 to R158): raw copies, but for D_RSSI. -/
def decodedFields (rxb : Vector Byte 24) : Decoded :=
  { state := rxb[6], power := rxb[7], volt10 := rxb[9], ambient := rxb[10], caseTemp := rxb[12], setpoint := rxb[13],
    mode := rxb[14], pump10 := rxb[15], lqraw := rxb[22], rssi := rssiOf rxb[22] }

/-- autoMode of a frame: byte 14 is exactly 0x32 (R159). -/
def autoModeOf (rxb : Vector Byte 24) : Bool :=
  rxb[14] == Config.autoMode

/-- The commit of DECODE on success (R152). -/
def commitDecoded (r : Regs) : Regs :=
  (r.setDecoded (decodedFields r.rxb)).setStatus (flagDecoded (autoModeOf r.rxb) r.status)

/-- DECODE's effect on a checksum failure: every D_ register is zero (R152, R153). -/
def discardDecoded (r : Regs) : Regs :=
  (r.setDecoded Decoded.zero).setStatus (flagChecksumFailure r.status)

/-- DECODE: CRC takes the computed CRC on both paths; the fields are committed only if the check passes (R152). -/
def execDecode (s : State) : Host.Outcome State Fault Refusal :=
  complete (fun r => (if crcOk r.rxb then commitDecoded r else discardDecoded r).setCrc (statusCrc r.rxb)) s

end Sys2Proof.Machine
end

