-- ==== Sys2Proof/Machine/Bus.lean ====
section
/-! DEFINITION. What one bus transaction or reset does to the machine (20_memory.md R60 to R63, R71; 30_encoding.md R93;
70_reset_and_hazards.md R230, R232). -/

namespace Sys2Proof.Machine

open Sys2Proof

/-- `Execute(v)`: the command that the byte selects runs to completion in the write that carries it (R93). -/
def execute (v : Byte) (s : State) : Host.Outcome State Fault Refusal :=
  match decodeCommand v with
  | .assigned i => exec i s
  | .illegal => execIllegal s

/-- `BusWrite(off, v)` (R63): a write to CMD runs a command; any other write stores a byte or is ignored. -/
def busWrite (off : Offset) (v : Byte) (s : State) : Host.Outcome State Fault Refusal :=
  if off = 0x00 then execute v s else complete (fun r => storeByte r off v) s

/-- One bus transaction, a single atomic step (R71). A read returns its byte and changes no register (R62). -/
def transact (t : Txn) (s : State) : Host.Outcome State Fault Refusal :=
  match t with
  | .read off => .next (s.pushRead (busRead s.regs off))
  | .write off v => busWrite off v s

/-- Hardware reset: every register takes its reset value (R230). -/
def hardwareReset (s : State) : State :=
  s.withRegs Regs.reset

/-- Hardware reset during a transaction: every state effect of the transaction is overwritten, and a read that overlaps
the reset returns an unspecified byte (R232). -/
def resetDuringTxn (t : Txn) (s : State) : State :=
  match t with
  | .read _ => (hardwareReset s).pushFreeRead
  | .write _ _ => hardwareReset s

/-- One event at the block's ports. -/
def deliver (e : Event) (s : State) : Host.Outcome State Fault Refusal :=
  match e with
  | .bus t => transact t s
  | .reset => .next (hardwareReset s)
  | .resetDuring t => .next (resetDuringTxn t s)

/-- The step of the machine: the next event that waits is delivered, in the order of issue (R73). With no event waiting
nothing happens: nothing else changes the block (R60; DEDUCED, notes/assumptions/2.md). -/
def advance (s : State) : Host.Outcome State Fault Refusal :=
  match s.pending with
  | [] => .next s
  | e :: rest => deliver e (s.withPending rest)

/-- The event by which a host issues the command byte `v`: a write to CMD at offset 0x00 (R90). -/
def commandEvent (v : Byte) : Event :=
  .bus (.write 0x00 v)

end Sys2Proof.Machine
end

