-- ==== Sys2Proof/Machine/Step.lean ====
section
/-! DEFINITION. One step of the machine, and how an instruction is put where the next step takes it. -/

namespace Sys2Proof.Machine

open Sys2Proof

/-- One step: one bus transaction with every effect it has, or one reset (R14, R71, R232). -/
def step (s : State) : Host.Outcome State Fault Refusal :=
  advance s

/-- The machine with the command of an opcode-table word issued next, as a write to CMD. The block fetches nothing (R41):
a command "takes effect through the bus write that carries it" (R76; notes/assumptions/6.md). -/
def State.withFetchWord (s : State) (nbits w : Nat) : State :=
  s.withPending (commandEvent (tableWordByte nbits w) :: s.pending)

end Sys2Proof.Machine
end

