-- ==== Sys2Proof/Machine/Assembler.lean ====
section
/-! DEFINITION. Host programs: the lines and pseudo-instructions of the assembler notation, their expansions into bus
transactions, the values their reads bind, and the reading of program text (30_encoding.md R97, R98). It is the host's
notation, not the block's: no step reads these definitions. -/

namespace Sys2Proof.Machine

open Sys2Proof

/-- A line of a host program (R97, R98). A host variable is named by its characters. Numbers are as written: `lineOk`
checks them. -/
inductive HostLine where
  /-- `wr OFF, VAL`. -/
  | wr (off val : Nat)
  /-- `rd OFF -> name`. -/
  | rd (off : Nat) (name : List Char)
  /-- A bare command mnemonic. -/
  | command (i : Instr)
  /-- `.byte OP`: the raw command byte. -/
  | rawByte (op : Nat)
  /-- `crcb V`. -/
  | crcb (v : Nat)
  /-- `crcs "s"`. -/
  | crcs (s : List Char)
  /-- `setcrc C`. -/
  | setcrc (c : Nat)
  /-- `setaddr A`. -/
  | setaddr (a : Nat)
  /-- `setcmd CODE_V, SEQ_V`. -/
  | setcmd (code seq : Nat)
  /-- `ldrx B0, ..., B23`. -/
  | ldrx (bytes : List Nat)
  /-- `rdcrc -> c`. -/
  | rdcrc (name : List Char)
  /-- `rdtx -> f`. -/
  | rdtx (name : List Char)
  /-- `rdrssi -> r`. -/
  | rdrssi (name : List Char)
deriving DecidableEq, Repr

/-- Every number of the line is in the range its place admits, `ldrx` has its 24 bytes and `crcs` an ASCII string. DESIGN
CHOICE (notes/assumptions/17.md): R97 lets `wr` take offset 0x00 with any byte, and also calls `.byte` the only way to spell an
illegal command; here `wr` to offset 0x00 is admitted with every byte, an unassigned one among them. -/
def lineOk : HostLine → Bool
  | .wr off val => off < 128 && val < 256
  | .rd off _ => off < 128
  | .command _ => true
  | .rawByte op => op < 256
  | .crcb v => v < 256
  | .crcs s => s.all fun c => c.toNat < 128
  | .setcrc c => c < 65536
  | .setaddr a => a < 4294967296
  | .setcmd code seq => code < 256 && seq < 256
  | .ldrx bytes => bytes.length == 24 && bytes.all fun b => b < 256
  | .rdcrc _ => true
  | .rdtx _ => true
  | .rdrssi _ => true

/-- `wr off, v`. -/
def wrTxn (off v : Nat) : Txn := .write (BitVec.ofNat 7 off) (BitVec.ofNat 8 v)

/-- `rd off`. -/
def rdTxn (off : Nat) : Txn := .read (BitVec.ofNat 7 off)

/-- The expansion of `crcb V`: `wr 0x01, V` then `wr 0x00, 0x02` (R98). -/
def crcbTxns (v : Nat) : List Txn := [wrTxn 0x01 v, wrTxn 0x00 0x02]

/-- Consecutive byte writes from offset `off` upward, in the order of the list. -/
def wrFrom (off : Nat) : List Nat → List Txn
  | [] => []
  | b :: bs => wrTxn off b :: wrFrom (off + 1) bs

/-- `n` consecutive byte reads from offset `off` upward. -/
def rdFrom (off : Nat) : Nat → List Txn
  | 0 => []
  | n + 1 => rdTxn off :: rdFrom (off + 1) n

/-- The exact expansion of each line into bus transactions (R98). -/
def expandLine : HostLine → List Txn
  | .wr off val => [wrTxn off val]
  | .rd off _ => [rdTxn off]
  | .command i => [.write 0x00 (encode i)]
  | .rawByte op => [wrTxn 0x00 op]
  | .crcb v => crcbTxns v
  | .crcs s => s.flatMap fun c => crcbTxns c.toNat
  | .setcrc c => [wrTxn 0x04 (c / 256), wrTxn 0x05 (c % 256)]
  | .setaddr a => [wrTxn 0x08 (a / 16777216), wrTxn 0x09 (a / 65536 % 256), wrTxn 0x0A (a / 256 % 256), wrTxn 0x0B (a % 256)]
  | .setcmd code seq => [wrTxn 0x06 code, wrTxn 0x07 seq]
  | .ldrx bytes => wrFrom 0x20 bytes
  | .rdcrc _ => [rdTxn 0x04, rdTxn 0x05]
  | .rdtx _ => rdFrom 0x10 10
  | .rdrssi _ => [rdTxn 0x49, rdTxn 0x4A]

/-- The transactions of a program, in order (R73). -/
def expandProgram (p : List HostLine) : List Txn := p.flatMap expandLine

/-- The events a host program puts at the block's port. -/
def programEvents (p : List HostLine) : List Event := (expandProgram p).map .bus

/-- A value bound to a host variable (R97, R98). -/
inductive HostValue where
  /-- By `rd`. -/
  | byte (b : Byte)
  /-- By `rdcrc`: c = {h, l}. -/
  | word (c : Half)
  /-- By `rdtx`: f[0] to f[9]. -/
  | frame (f : List Byte)
  /-- By `rdrssi`: {h, l} read as 16-bit two's complement. -/
  | signed (n : Int)
deriving DecidableEq, Repr

/-- The binding a line makes from the bytes its reads returned: none for a line that reads nothing, or if too few bytes
are there. -/
def lineBinding : HostLine → List Byte → Option (List Char × HostValue)
  | .rd _ name, b :: _ => some (name, .byte b)
  | .rdcrc name, h :: l :: _ => some (name, .word (joinBytes h l))
  | .rdtx name, bs => if 10 ≤ bs.length then some (name, .frame (bs.take 10)) else none
  | .rdrssi name, h :: l :: _ => some (name, .signed (s16 (joinBytes h l)))
  | _, _ => none

/-- How many bytes a line reads. -/
def lineReads (l : HostLine) : Nat :=
  (expandLine l).countP fun t => match t with
    | .read _ => true
    | .write _ _ => false

/-- The variables a program has bound, from the bytes its reads returned, in order. -/
def bindings : List HostLine → List Byte → List (List Char × HostValue)
  | [], _ => []
  | l :: p, bs => (lineBinding l bs).toList ++ bindings p (bs.drop (lineReads l))

/-- Why a program text is rejected. -/
inductive AsmError where
  /-- A string or a character literal that does not close on its line. -/
  | openLiteral
  /-- A line that is none of the forms of R97 and R98. -/
  | unknownLine
  /-- A line of a known form with a number, a string or a list outside its range. -/
  | outOfRange
deriving DecidableEq, Repr

/-- A lexical unit of a line: a run of characters, a string, or a character literal. -/
inductive Token where
  | word (cs : List Char)
  | str (cs : List Char)
  | chr (c : Char)
deriving DecidableEq, Repr

/-- Where the lexer stands; the characters of an open unit in reverse. -/
inductive LexState where
  | gap
  | word (rev : List Char)
  | str (rev : List Char)
  | quote
  | quoted (c : Char)
  | comment
deriving DecidableEq, Repr

/-- The double quote, which opens and closes a string. -/
def doubleQuote : Char := Char.ofNat 34

/-- The single quote, which opens and closes a character literal. -/
def singleQuote : Char := Char.ofNat 39

/-- A space, a tab, a carriage return or a comma (DESIGN CHOICE, notes/assumptions/9.md). -/
def isSeparator (c : Char) : Bool := c = ' ' || c = ',' || c.toNat = 9 || c.toNat = 13

/-- The lexer's state after a character that stands outside strings, literals and comments. -/
def lexOpen (c : Char) : LexState :=
  if c = ';' then .comment
  else if isSeparator c then .gap
  else if c = doubleQuote then .str []
  else if c = singleQuote then .quote
  else .word [c]

/-- A run of characters ends at a separator, a comment or the opening of a string or a literal. -/
def endsWord (c : Char) : Bool := c = ';' || isSeparator c || c = doubleQuote || c = singleQuote

/-- The tokens of a line; `;` starts a comment that runs to the end of the line (R97). DESIGN CHOICE (notes/assumptions/9.md):
R97 does not say what `;` is inside a string or a character literal; here it is an ordinary character there. -/
def lexLine : LexState → List Char → Except AsmError (List Token)
  | .gap, [] => .ok []
  | .comment, [] => .ok []
  | .word rev, [] => .ok [.word rev.reverse]
  | .str _, [] => .error .openLiteral
  | .quote, [] => .error .openLiteral
  | .quoted _, [] => .error .openLiteral
  | .comment, _ :: _ => .ok []
  | .gap, c :: cs => lexLine (lexOpen c) cs
  | .word rev, c :: cs =>
    if endsWord c then (lexLine (lexOpen c) cs).map (Token.word rev.reverse :: ·) else lexLine (.word (c :: rev)) cs
  | .str rev, c :: cs =>
    if c = doubleQuote then (lexLine .gap cs).map (Token.str rev.reverse :: ·) else lexLine (.str (c :: rev)) cs
  | .quote, c :: cs => lexLine (.quoted c) cs
  | .quoted x, c :: cs => if c = singleQuote then (lexLine .gap cs).map (Token.chr x :: ·) else .error .openLiteral

/-- The value of a digit in base 16, either case of letter. -/
def digitValue (c : Char) : Option Nat :=
  if '0' ≤ c ∧ c ≤ '9' then some (c.toNat - 48)
  else if 'A' ≤ c ∧ c ≤ 'F' then some (c.toNat - 55)
  else if 'a' ≤ c ∧ c ≤ 'f' then some (c.toNat - 87)
  else none

/-- Digits in a base, most significant first, after the value `acc`. -/
def digitsValue (base acc : Nat) : List Char → Option Nat
  | [] => some acc
  | c :: cs =>
    match digitValue c with
    | some d => if d < base then digitsValue base (acc * base + d) cs else none
    | none => none

/-- A number: hexadecimal with a `0x` prefix, or decimal (R97). -/
def numberValue : List Char → Option Nat
  | [] => none
  | '0' :: 'x' :: c :: cs => digitsValue 16 0 (c :: cs)
  | cs => digitsValue 10 0 cs

/-- A number or a character literal, "the byte of the ASCII character" (R97). DESIGN CHOICE (notes/assumptions/9.md): R97 does
not say what a literal outside ASCII is. Here it is its code point, which `lineOk` admits where a number of that value fits;
a `crcs` string with such a character is rejected. -/
def tokenValue : Token → Option Nat
  | .word cs => numberValue cs
  | .chr c => some c.toNat
  | .str _ => none

/-- The register names of the map and their offsets (R64, R97). R97's list of names leaves CMD out and its text writes
`wr CMD, <opcode>`; here CMD is a name like the others (DESIGN CHOICE, notes/assumptions/17.md). -/
def registerNames : List (List Char × Nat) :=
  [("CMD".toList, 0x00), ("ARG".toList, 0x01), ("STATUS".toList, 0x02), ("CRC_HI".toList, 0x04), ("CRC_LO".toList, 0x05),
   ("CODE".toList, 0x06), ("SEQ".toList, 0x07), ("ADDR3".toList, 0x08), ("ADDR2".toList, 0x09), ("ADDR1".toList, 0x0A),
   ("ADDR0".toList, 0x0B)] ++
  (List.range 10).map (fun i => ("TXB".toList ++ Nat.toDigits 10 i, 0x10 + i)) ++
  (List.range 24).map (fun i => ("RXB".toList ++ Nat.toDigits 10 i, 0x20 + i)) ++
  [("D_STATE".toList, 0x40), ("D_POWER".toList, 0x41), ("D_VOLT10".toList, 0x42), ("D_AMBIENT".toList, 0x43),
   ("D_CASE".toList, 0x44), ("D_SETPOINT".toList, 0x45), ("D_MODE".toList, 0x46), ("D_PUMP10".toList, 0x47),
   ("D_LQRAW".toList, 0x48), ("D_RSSI_HI".toList, 0x49), ("D_RSSI_LO".toList, 0x4A)]

/-- An offset: a register name or a number (R97). -/
def tokenOffset (t : Token) : Option Nat :=
  match t with
  | .word cs => (registerNames.lookup cs).orElse fun _ => numberValue cs
  | t => tokenValue t

/-- A command mnemonic (R97). -/
def mnemonicOf (cs : List Char) : Option Instr :=
  [("NOP".toList, Instr.nop), ("CRC_INIT".toList, Instr.crcInit), ("CRC_UPDATE".toList, Instr.crcUpdate),
   ("ENCODE".toList, Instr.encode), ("DECODE".toList, Instr.decode), ("CLR_ERR".toList, Instr.clrErr),
   ("SRST".toList, Instr.srst)].lookup cs

/-- The variable that `-> name` binds. -/
def boundName : List Token → Option (List Char)
  | [.word arrow, .word name] => if arrow = "->".toList then some name else none
  | _ => none

/-- The line that starts with a word and goes on with these tokens (R97, R98). -/
def parseForm (head : List Char) (rest : List Token) : Option HostLine :=
  if head = "wr".toList then
    match rest with
    | [o, v] => (tokenOffset o).bind fun off => (tokenValue v).map fun val => .wr off val
    | _ => none
  else if head = "rd".toList then
    match rest with
    | o :: more => (tokenOffset o).bind fun off => (boundName more).map fun n => .rd off n
    | _ => none
  else if head = ".byte".toList then
    match rest with
    | [v] => (tokenValue v).map .rawByte
    | _ => none
  else if head = "crcb".toList then
    match rest with
    | [v] => (tokenValue v).map .crcb
    | _ => none
  else if head = "crcs".toList then
    match rest with
    | [.str s] => some (.crcs s)
    | _ => none
  else if head = "setcrc".toList then
    match rest with
    | [v] => (tokenValue v).map .setcrc
    | _ => none
  else if head = "setaddr".toList then
    match rest with
    | [v] => (tokenValue v).map .setaddr
    | _ => none
  else if head = "setcmd".toList then
    match rest with
    | [c, q] => (tokenValue c).bind fun code => (tokenValue q).map fun seq => .setcmd code seq
    | _ => none
  else if head = "ldrx".toList then (rest.mapM tokenValue).map .ldrx
  else if head = "rdcrc".toList then (boundName rest).map .rdcrc
  else if head = "rdtx".toList then (boundName rest).map .rdtx
  else if head = "rdrssi".toList then (boundName rest).map .rdrssi
  else if rest = [] then (mnemonicOf head).map .command
  else none

/-- A line of text: nothing for a blank line or a comment, its form, or why it is rejected. -/
def parseLine (cs : List Char) : Except AsmError (Option HostLine) :=
  match lexLine .gap cs with
  | .error e => .error e
  | .ok [] => .ok none
  | .ok (.word head :: rest) =>
    match parseForm head rest with
    | some l => if lineOk l then .ok (some l) else .error .outOfRange
    | none => .error .unknownLine
  | .ok (_ :: _) => .error .unknownLine

/-- A text cut at its line ends (the number of the newline character is 10). -/
def splitLines (current : List Char) : List Char → List (List Char)
  | [] => [current.reverse]
  | c :: cs => if c.toNat = 10 then current.reverse :: splitLines [] cs else splitLines (c :: current) cs

/-- A program text: its lines in order, or why it is rejected. -/
def parseProgram (text : List Char) : Except AsmError (List HostLine) :=
  ((splitLines [] text).mapM parseLine).map fun ls => ls.filterMap id

end Sys2Proof.Machine
end

