-- ==== Sys2Proof/Machine/Ports.lean ====
section
/-! DEFINITION. The block's ports, at the transaction level that the spec makes normative (20_memory.md R78): which event a
sample of the input ports stands for. The clock is read by no rule, and the handshake's timing is the platform's (R246). -/

namespace Sys2Proof.Machine

open Sys2Proof

/-- The ports at one instant (R78). `clk` is left out: "no rule of this spec reads it". -/
structure PortSample where
  /-- Hardware reset, active high. -/
  rst : Bool
  /-- A transaction is requested. -/
  busSel : Bool
  /-- 1 for a write, 0 for a read. -/
  busWe : Bool
  /-- The offset. -/
  busOff : Offset
  /-- The byte of a write. -/
  busWdata : Byte
  /-- Output: the transaction has completed; low for a wait state. -/
  busReady : Bool
deriving DecidableEq, Repr

/-- The transaction that the bus ports describe (R78). -/
def portTxn (p : PortSample) : Txn :=
  if p.busWe then .write p.busOff p.busWdata else .read p.busOff

/-- The event of a sample: reset wins over the transaction it overlaps (R232); a transaction "takes effect once, when it
completes" (R78); a wait state and an idle bus are no event (DEDUCED, notes/assumptions/8.md; `portEvents` says how
several samples in a row are read). -/
def portEvent (p : PortSample) : Option Event :=
  if p.rst then
    if p.busSel then some (.resetDuring (portTxn p)) else some .reset
  else if p.busSel && p.busReady then some (.bus (portTxn p))
  else none

/-- The events of a sequence of samples, in order (R73). DESIGN CHOICE (notes/assumptions/16.md): the spec does not say which
events a transaction stands for whose wait states span a reset of several samples. Here each sample is read on its own: every
one with `rst` and `busSel` high is an overlapped transaction of its own, `busReady` low or high, so that a read draws one free
byte for each; and a later sample with `busSel` and `busReady` high and `rst` low is a fresh transaction. -/
def portEvents (ps : List PortSample) : List Event :=
  ps.filterMap portEvent

/-- bus_rdata after a read: the byte the last read returned (R78). -/
def busRdata (s : State) : Option Byte :=
  s.reads.getLast?

end Sys2Proof.Machine
end

