-- ==== Sys2Proof/Machine/Scaling.lean ====
section
/-! DEFINITION. What the decoded registers mean in physical units, as exact numbers (42_decode.md R154 to R159; 00_scope.md
R10: "no register holds one"). No step reads these definitions. -/

namespace Sys2Proof.Machine

open Sys2Proof

/-- Supply voltage in volts: u8(D_VOLT10) / 10 (R155). -/
def voltageOf (d : Decoded) : Rat := (u8 d.volt10 : Rat) / 10

/-- Pump frequency in hertz: u8(D_PUMP10) / 10 (R156). -/
def pumpFrequencyOf (d : Decoded) : Rat := (u8 d.pump10 : Rat) / 10

/-- Signal strength in dBm: s16(D_RSSI) / 2 (R158). -/
def signalStrengthOf (d : Decoded) : Rat := (s16 d.rssi : Rat) / 2

/-- The source's DecodedStatus, the "output of the codec" (R13), in physical units. -/
structure DecodedStatus where
  /-- Operating state, the raw byte (R30, R154). -/
  state : Byte
  /-- Power level in raw units (R31). -/
  power : Int
  /-- Supply voltage in volts (R155). -/
  voltage : Rat
  /-- Ambient temperature in °C (R157). -/
  ambientTemp : Int
  /-- Case temperature in °C (R157). -/
  caseTemp : Int
  /-- Setpoint in °C (R157). -/
  setpoint : Int
  /-- autoMode (R159). -/
  autoMode : Bool
  /-- Pump frequency in hertz (R156). -/
  pumpFrequency : Rat
  /-- Signal strength in dBm (R158). -/
  signalStrength : Rat
deriving DecidableEq, Repr

/-- The decoded status a host may take from the registers: only when DVALID is 1, since the zeros of a failed DECODE
"carry no status meaning" (R153). -/
def decodedStatus (r : Regs) : Option DecodedStatus :=
  if r.status.dvalid then
    some
      { state := r.decoded.state
        power := u8 r.decoded.power
        voltage := voltageOf r.decoded
        ambientTemp := s8 r.decoded.ambient
        caseTemp := s8 r.decoded.caseTemp
        setpoint := s8 r.decoded.setpoint
        autoMode := r.status.dauto
        pumpFrequency := pumpFrequencyOf r.decoded
        signalStrength := signalStrengthOf r.decoded }
  else none

end Sys2Proof.Machine
end

