-- ==== Sys2Proof/Safety.lean ====
section
/-! DEFINITION. What counts as a legal state of the block, in the terms the statements use. No step can be unsafe by stopping:
the block "never hangs, stalls or refuses" (60_exceptions.md R216). -/

namespace Sys2Proof.Machine

open Sys2Proof

/-- The flag pairs are legal: "DVALID and CRCERR are never both 1" and "DAUTO = 1 implies DVALID = 1" (10_state.md R29). -/
abbrev Regs.flagsLegal (r : Regs) : Prop :=
  ¬ (r.status.dvalid = true ∧ r.status.crcerr = true) ∧ (r.status.dauto = true → r.status.dvalid = true)

/-- TXB shows what TXVALID says: a CommandFrame that ENCODE can have built, or the zeros of reset (R26, R28, R133). -/
abbrev Regs.txbLegal (r : Regs) : Prop :=
  if r.status.txvalid then
    r.txb[0] = 0x09 ∧ r.txb[9] = 0x00 ∧ crc16 (r.txb.toList.take 7) = r.txb[7] ++ r.txb[8]
  else r.txb = Vector.replicate 10 0

/-- The D_ registers show what DVALID says: fields that a successful DECODE can have committed, or zeros (R39, R153, R159). -/
abbrev Regs.decodedLegal (r : Regs) : Prop :=
  if r.status.dvalid then
    r.decoded.rssi = r.decoded.lqraw.signExtend 16 - 148 ∧ (r.status.dauto = true ↔ r.decoded.mode = 0x32)
  else r.decoded = Decoded.zero

end Sys2Proof.Machine
end

