-- ==== Sys2Proof/Certificates/Slice0/Obligations.lean ====
section
/-! DEFINITION. The statements about the model, for the provers. Each docstring names the rule of spec/ it formalises, or says
that it is derived. Where a statement is about a step on an event `e`, the state is written with `e` at the head of `pending`,
which is how the model holds what the host does next (notes/assumptions/1.md). -/

open Sys2Proof Sys2Proof.Machine

/-! ## Reset -/

/-- 10_state.md R44: after hardware reset or SRST every register has the value of the table, and so has `State.reset`. -/
def Obligations.ResetGivesEveryRegisterItsValue : Prop :=
  let table : Regs :=
    { crc := 0xFFFF, arg := 0x00, code := 0x00, seq := 0x00, addr := 0x00000000, txb := Vector.replicate 10 0x00,
      rxb := Vector.replicate 24 0x00,
      status := { dvalid := false, crcerr := false, dauto := false, txvalid := false, illcmd := false },
      decoded := { state := 0x00, power := 0x00, volt10 := 0x00, ambient := 0x00, caseTemp := 0x00, setpoint := 0x00,
                   mode := 0x00, pump10 := 0x00, lqraw := 0x00, rssi := 0x0000 } }
  State.reset.regs = table ∧
  (∀ (s : State) (rest : List Event),
    step { s with pending := .reset :: rest } = .next { s with regs := table, pending := rest }) ∧
  (∀ s : State, exec .srst s = .next { s with regs := table })

/-- 43_control.md R182: SRST is command byte 0xFF, completes, and has exactly the effect of hardware reset; STATUS reads 0. -/
def Obligations.SrstActsAsHardwareReset : Prop :=
  decodeCommand 0xFF = .assigned .srst ∧
  ∀ (s : State) (rest : List Event),
    exec .srst s = .next { s with regs := State.reset.regs } ∧
    step { s with pending := .bus (.write 0x00 0xFF) :: rest } = step { s with pending := .reset :: rest } ∧
    busRead State.reset.regs 0x02 = 0x00

/-- Derived (70_reset_and_hazards.md R232): reset is a step of its own, and a reset during a transaction overwrites the
transaction's effects on the registers. The third clause's byte and counter are the model's own choice (notes/assumptions/4.md):
R232 says only that an overlapped read "returns an unspecified byte", which the model makes `Config.freeByte` at the number of
the draw, counting the draw. -/
def Obligations.ResetDuringATransactionOverwritesIt : Prop :=
  ∀ (s : State) (rest : List Event) (off : Offset) (v : Byte),
    step { s with pending := .reset :: rest } = .next { s with regs := State.reset.regs, pending := rest } ∧
    step { s with pending := .resetDuring (.write off v) :: rest } =
      .next { s with regs := State.reset.regs, pending := rest } ∧
    step { s with pending := .resetDuring (.read off) :: rest } =
      .next { regs := State.reset.regs, pending := rest, reads := s.reads ++ [Config.freeByte s.draws],
              draws := s.draws + 1 }

/-! ## Commands: decoding and dispatch -/

/-- 30_encoding.md R93: a write of byte v to CMD runs `Execute(v)` to completion in the same step. -/
def Obligations.CmdWriteRunsExecute : Prop :=
  ∀ (s : State) (rest : List Event) (v : Byte),
    step { s with pending := .bus (.write 0x00 v) :: rest } =
      if v = 0x00 then exec .nop { s with pending := rest }
      else if v = 0x01 then exec .crcInit { s with pending := rest }
      else if v = 0x02 then exec .crcUpdate { s with pending := rest }
      else if v = 0x10 then exec .encode { s with pending := rest }
      else if v = 0x20 then exec .decode { s with pending := rest }
      else if v = 0x30 then exec .clrErr { s with pending := rest }
      else if v = 0xFF then exec .srst { s with pending := rest }
      else .next { s with regs := { s.regs with status := { s.regs.status with illcmd := true } }, pending := rest }

/-- A step runs the decoded instruction (derived, R93): when the next event is a write to CMD of a byte that decodes to a
well-formed instruction, the step is `exec` of it on the state with that event taken off; in particular after
`withFetchWord`. -/
def Obligations.StepRunsTheDecodedInstruction : Prop :=
  ∀ (s : State) (rest : List Event) (v : Byte) (i : Instr), decodeCommand v = .assigned i → i.wellFormed = true →
    step { s with pending := .bus (.write 0x00 v) :: rest } = exec i { s with pending := rest } ∧
    step (s.withFetchWord 8 v.toNat) = exec i s

/-- Words of the table decode to the commands they stand for (derived, R93; a sanity statement). -/
def Obligations.OpcodeWordsDecode : Prop :=
  decodeCommand 0b00000000 = .assigned .nop ∧ decodeCommand 0b00000001 = .assigned .crcInit ∧
  decodeCommand 0b00000010 = .assigned .crcUpdate ∧ decodeCommand 0b00010000 = .assigned .encode ∧
  decodeCommand 0b00100000 = .assigned .decode ∧ decodeCommand 0b00110000 = .assigned .clrErr ∧
  decodeCommand 0b11111111 = .assigned .srst ∧ decodeCommand 0b00000011 = .illegal

/-- Decoder and encoder agree in both directions (derived, R93 and R96): each command has one byte and each assigned byte
one command. -/
def Obligations.DecodeAndEncodeAgree : Prop :=
  ∀ (i : Instr) (v : Byte), decodeCommand v = .assigned i ↔ v = encode i

/-- 30_encoding.md R94: the 249 unassigned bytes are exactly the four ranges; each sets ILLCMD and changes nothing else. -/
def Obligations.UnassignedBytesSetIllcmdOnly : Prop :=
  (∀ v : Byte, decodeCommand v = .illegal ↔
    (0x03 ≤ v ∧ v ≤ 0x0F) ∨ (0x11 ≤ v ∧ v ≤ 0x1F) ∨ (0x21 ≤ v ∧ v ≤ 0x2F) ∨ (0x31 ≤ v ∧ v ≤ 0xFE)) ∧
  ((List.range 256).filter fun n => decodeCommand (BitVec.ofNat 8 n) = .illegal).length = 249 ∧
  ∀ (s : State) (rest : List Event) (v : Byte), decodeCommand v = .illegal →
    step { s with pending := .bus (.write 0x00 v) :: rest } =
      .next { s with regs := { s.regs with status := { s.regs.status with illcmd := true } }, pending := rest }

/-! ## The CRC function -/

/-- 40_crc.md R111: the one-byte step is the XOR of the byte into the low 8 bits and eight iterations of the loop body. -/
def Obligations.CrcStepIsTheBitLoop : Prop :=
  ∀ (c : Half) (b : Byte),
    crcStep c b =
      (fun x : Half => if x.getLsbD 0 = true then (x >>> 1) ^^^ 0xA001 else x >>> 1)^[8] (c ^^^ b.zeroExtend 16)

/-- 40_crc.md R112: `crc16` is the left fold of the step from 0xFFFF, without a final XOR. -/
def Obligations.CrcOfASequenceIsTheFold : Prop :=
  crc16 [] = 0xFFFF ∧ (∀ (m : List Byte) (b : Byte), crc16 (m ++ [b]) = crcStep (crc16 m) b) ∧
  ∀ m : List Byte, crc16 m = m.foldl crcStep 0xFFFF

/-- 40_crc.md R115: the table form of the step equals the loop, for every accumulator and byte; and the five entries given. -/
def Obligations.CrcTableFormEqualsTheLoop : Prop :=
  (∀ (c : Half) (b : Byte),
    crcStep c b = (c >>> 8) ^^^ crcStep 0x0000 ((c ^^^ b.zeroExtend 16).setWidth 8) ∧ crcStep c b = crcStepByTable c b) ∧
  (∀ i : Byte, crcTable i = crcStep 0x0000 i) ∧
  crcTable 0x00 = 0x0000 ∧ crcTable 0x01 = 0xC0C1 ∧ crcTable 0x02 = 0xC181 ∧ crcTable 0x80 = 0xA001 ∧
  crcTable 0xFF = 0x4040

/-- 40_crc.md R116: the source's two values, of the empty input and of ASCII "123456789". -/
def Obligations.CrcCheckValues : Prop :=
  crc16 [] = 0xFFFF ∧ crc16 [0x31, 0x32, 0x33, 0x34, 0x35, 0x36, 0x37, 0x38, 0x39] = 0x4B37

/-- The step is linear over XOR (derived: the sentence of 42_decode.md R161). -/
def Obligations.CrcStepIsLinear : Prop :=
  ∀ (a c : Half) (b d : Byte), crcStep (a ^^^ c) (b ^^^ d) = crcStep a b ^^^ crcStep c d

/-- For each byte the step is a bijection of the accumulator, and zero stays zero under a zero byte (derived: 40_crc.md R114,
corner cases). -/
def Obligations.CrcStepIsABijection : Prop :=
  (∀ b : Byte, Function.Bijective fun c : Half => crcStep c b) ∧ crcStep 0x0000 0x00 = 0x0000

/-- 40_crc.md R117 (derived: the spec marks the residue property as general knowledge): a message with its CRC appended low
byte first has CRC 0, for every message; with the high byte first the CRC of the spec's one example is 0x2121. -/
def Obligations.CrcResidueIsZeroLowByteFirst : Prop :=
  (∀ m : List Byte, crc16 (m ++ [(crc16 m).extractLsb' 0 8, (crc16 m).extractLsb' 8 8]) = 0x0000) ∧
  crc16 [0x31, 0x32, 0x33, 0x34, 0x35, 0x36, 0x37, 0x38, 0x39, 0x37, 0x4B] = 0x0000 ∧
  crc16 [0x31, 0x32, 0x33, 0x34, 0x35, 0x36, 0x37, 0x38, 0x39, 0x4B, 0x37] = 0x2121

/-! ## CRC_INIT and CRC_UPDATE -/

/-- 40_crc.md R113: CRC_INIT sets CRC to 0xFFFF and changes nothing else; it is idempotent; CRC then reads FF FF. -/
def Obligations.CrcInitSetsTheAccumulator : Prop :=
  decodeCommand 0x01 = .assigned .crcInit ∧
  ∀ s : State, ∃ t : State, exec .crcInit s = .next t ∧ t = { s with regs := { s.regs with crc := 0xFFFF } } ∧
    exec .crcInit t = .next t ∧ busRead t.regs 0x04 = 0xFF ∧ busRead t.regs 0x05 = 0xFF ∧ t.regs.crc = crc16 []

/-- CRC_UPDATE folds ARG into CRC and changes nothing else: ARG is not consumed, no flag is written (derived: 40_crc.md R114,
70_reset_and_hazards.md R243; its other corner cases are statements of their own). -/
def Obligations.CrcUpdateFoldsArg : Prop :=
  decodeCommand 0x02 = .assigned .crcUpdate ∧
  ∀ s : State, exec .crcUpdate s = .next { s with regs := { s.regs with crc := crcStep s.regs.crc s.regs.arg } }

/-- The accumulator computes `crc16` (derived: 40_crc.md R114, "After CRC_INIT and n CRC_UPDATEs with ARG values m[0..n-1],
CRC = crc16(m)"; 30_encoding.md R91): from every state, for every byte sequence, CRC_INIT and then a write of ARG and a
CRC_UPDATE for each byte leave crc16 of the sequence, and change nothing else but ARG. -/
def Obligations.AccumulatorComputesCrcOfTheBytesFed : Prop :=
  ∀ (s : State) (m : List Byte) (rest : List Event),
    Host.Core.run Sys2Proof.core (1 + 2 * m.length)
      { s with pending := (.bus (.write 0x00 0x01) :: m.flatMap fun b => [.bus (.write 0x01 b), .bus (.write 0x00 0x02)]) ++ rest } =
    .next { s with regs := { s.regs with crc := crc16 m, arg := (m.getLast?).getD s.regs.arg }, pending := rest }

/-! ## ENCODE -/

/-- 41_encode.md R131 (and the layout of R130): ENCODE completes, writes the ten frame bytes, CRC and TXVALID, and nothing
else; it accepts every operand and is idempotent. -/
def Obligations.EncodeBuildsTheCommandFrame : Prop :=
  decodeCommand 0x10 = .assigned .encode ∧
  ∀ s : State, ∃ t : State, exec .encode s = .next t ∧
    (let a := s.regs.addr
     let c := crc16 [0x09, s.regs.code, a.extractLsb' 24 8, a.extractLsb' 16 8, a.extractLsb' 8 8, a.extractLsb' 0 8, s.regs.seq]
     t = { s with regs := { s.regs with
             txb := #v[0x09, s.regs.code, a.extractLsb' 24 8, a.extractLsb' 16 8, a.extractLsb' 8 8, a.extractLsb' 0 8,
                       s.regs.seq, c.extractLsb' 8 8, c.extractLsb' 0 8, 0x00]
             crc := c
             status := { s.regs.status with txvalid := true } } }) ∧
    exec .encode t = .next t

/-- 41_encode.md R133: after ENCODE, the CRC of frame bytes 0 to 6 is the CRC stored at bytes 7 and 8, and is CRC. -/
def Obligations.EncodedFrameCarriesItsCrc : Prop :=
  ∀ s : State, ∃ t : State, exec .encode s = .next t ∧
    crc16 (t.regs.txb.toList.take 7) = t.regs.txb[7] ++ t.regs.txb[8] ∧ t.regs.crc = t.regs.txb[7] ++ t.regs.txb[8]

/-- 41_encode.md R132: feeding TXB[0] to TXB[6] back through CRC_INIT and seven CRC_UPDATEs gives the CRC in the frame. -/
def Obligations.HostRecomputesTheFrameCrc : Prop :=
  ∀ (s : State) (rest : List Event), ∃ t u : State, exec .encode s = .next t ∧
    Host.Core.run Sys2Proof.core 15
      { t with pending := (.bus (.write 0x00 0x01) ::
          (t.regs.txb.toList.take 7).flatMap fun b => [.bus (.write 0x01 b), .bus (.write 0x00 0x02)]) ++ rest } = .next u ∧
    u.regs.crc = t.regs.txb[7] ++ t.regs.txb[8] ∧ u.regs.crc = t.regs.crc

/-! ## DECODE -/

/-- 42_decode.md R151 and R152: DECODE completes on every frame; CRC takes the computed CRC on both paths; the fields are
committed exactly when the computed CRC equals bytes 19 and 20, and are all zeroed otherwise; RXB and the rest stay, and a
second DECODE changes nothing. -/
def Obligations.DecodeCommitsOnlyACheckedFrame : Prop :=
  decodeCommand 0x20 = .assigned .decode ∧
  ∀ s : State, ∃ t : State, exec .decode s = .next t ∧
    (let x := s.regs.rxb
     let c := crc16 (x.toList.take 19)
     t = if c = x[19] ++ x[20] then
           { s with regs := { s.regs with
               crc := c
               decoded := { state := x[6], power := x[7], volt10 := x[9], ambient := x[10], caseTemp := x[12],
                            setpoint := x[13], mode := x[14], pump10 := x[15], lqraw := x[22],
                            rssi := x[22].signExtend 16 - 148 }
               status := { s.regs.status with dvalid := true, crcerr := false, dauto := decide (x[14] = 0x32) } } }
         else
           { s with regs := { s.regs with
               crc := c
               decoded := { state := 0x00, power := 0x00, volt10 := 0x00, ambient := 0x00, caseTemp := 0x00,
                            setpoint := 0x00, mode := 0x00, pump10 := 0x00, lqraw := 0x00, rssi := 0x0000 }
               status := { s.regs.status with dvalid := false, crcerr := true, dauto := false } } }) ∧
    exec .decode t = .next t

/-- 42_decode.md R153 as the host sees it: after a DECODE that fails, every D_ offset reads 0x00 and DVALID is 0, whatever
the registers held and whatever the frame says. -/
def Obligations.FailedDecodeLeavesNoFieldToRead : Prop :=
  ∀ s : State, crc16 (s.regs.rxb.toList.take 19) ≠ s.regs.rxb[19] ++ s.regs.rxb[20] →
    ∃ t : State, exec .decode s = .next t ∧ t.regs.status.dvalid = false ∧ decodedStatus t.regs = none ∧
      ∀ off : Offset, 0x40 ≤ off → off ≤ 0x4A → busRead t.regs off = 0x00

/-- 42_decode.md R154 to R157: after a DECODE that succeeds, the raw fields are the frame's bytes, and the readings in
physical units are those the rules give: unsigned tenths of a volt and of a hertz, signed degrees. -/
def Obligations.DecodedFieldsHaveTheirPhysicalValues : Prop :=
  let signed : Byte → Int := fun b => if b.toNat < 128 then (b.toNat : Int) else (b.toNat : Int) - 256
  ∀ s : State, crc16 (s.regs.rxb.toList.take 19) = s.regs.rxb[19] ++ s.regs.rxb[20] →
    ∃ (t : State) (d : DecodedStatus), exec .decode s = .next t ∧ decodedStatus t.regs = some d ∧
      t.regs.decoded.state = s.regs.rxb[6] ∧ t.regs.decoded.power = s.regs.rxb[7] ∧
      t.regs.decoded.mode = s.regs.rxb[14] ∧ t.regs.decoded.lqraw = s.regs.rxb[22] ∧
      t.regs.decoded.volt10 = s.regs.rxb[9] ∧ d.voltage = (s.regs.rxb[9].toNat : Rat) / 10 ∧
      0 ≤ d.voltage ∧ d.voltage ≤ 255 / 10 ∧
      t.regs.decoded.pump10 = s.regs.rxb[15] ∧ d.pumpFrequency = (s.regs.rxb[15].toNat : Rat) / 10 ∧
      0 ≤ d.pumpFrequency ∧ d.pumpFrequency ≤ 255 / 10 ∧
      t.regs.decoded.ambient = s.regs.rxb[10] ∧ d.ambientTemp = signed s.regs.rxb[10] ∧
      t.regs.decoded.caseTemp = s.regs.rxb[12] ∧ d.caseTemp = signed s.regs.rxb[12] ∧
      t.regs.decoded.setpoint = s.regs.rxb[13] ∧ d.setpoint = signed s.regs.rxb[13]

/-- 42_decode.md R158: after a DECODE that succeeds, D_RSSI read as two's complement is s8(byte 22) - 148 half-dBm with no
overflow, it stays in -276 to -21, and the signal strength is exactly s8(byte 22)/2 - 74 dBm. -/
def Obligations.RssiIsExactInHalfDbm : Prop :=
  let signed : Byte → Int := fun b => if b.toNat < 128 then (b.toNat : Int) else (b.toNat : Int) - 256
  ∀ s : State, crc16 (s.regs.rxb.toList.take 19) = s.regs.rxb[19] ++ s.regs.rxb[20] →
    ∃ t : State, exec .decode s = .next t ∧
      t.regs.decoded.rssi = s.regs.rxb[22].signExtend 16 - 148 ∧
      t.regs.decoded.rssi.toInt = signed s.regs.rxb[22] - 148 ∧
      -276 ≤ t.regs.decoded.rssi.toInt ∧ t.regs.decoded.rssi.toInt ≤ -21 ∧
      signalStrengthOf t.regs.decoded = (signed s.regs.rxb[22] : Rat) / 2 - 74

/-- 42_decode.md R159: DAUTO is 1 exactly when byte 14 is 0x32 and the frame passed its check; the raw byte stays in D_MODE. -/
def Obligations.AutoModeIsExactlyTheAutoByte : Prop :=
  ∀ s : State, ∃ t : State, exec .decode s = .next t ∧
    (t.regs.status.dauto = true ↔
      s.regs.rxb[14] = 0x32 ∧ crc16 (s.regs.rxb.toList.take 19) = s.regs.rxb[19] ++ s.regs.rxb[20]) ∧
    (crc16 (s.regs.rxb.toList.take 19) = s.regs.rxb[19] ++ s.regs.rxb[20] → t.regs.decoded.mode = s.regs.rxb[14])

/-- Derived (42_decode.md R160): a change to byte 21, 22 or 23 of a frame that passes is not detected: DECODE still succeeds, and
commits the byte 22 it finds. -/
def Obligations.BytesOutsideTheCrcAreNotChecked : Prop :=
  ∀ (s : State) (b21 b22 b23 : Byte), crc16 (s.regs.rxb.toList.take 19) = s.regs.rxb[19] ++ s.regs.rxb[20] →
    ∃ t u : State, exec .decode s = .next t ∧
      exec .decode { s with regs := { s.regs with rxb := ((s.regs.rxb.set 21 b21).set 22 b22).set 23 b23 } } = .next u ∧
      u.regs.status = t.regs.status ∧ u.regs.status.dvalid = true ∧ u.regs.crc = t.regs.crc ∧
      u.regs.decoded = { t.regs.decoded with lqraw := b22, rssi := b22.signExtend 16 - 148 }

/-- 42_decode.md R161: of a frame that passes, a change of one byte of 0 to 18 by a nonzero XOR is detected, and so is any
change confined to bytes 19 and 20. -/
def Obligations.SingleByteChangesAreDetected : Prop :=
  ∀ s : State, crc16 (s.regs.rxb.toList.take 19) = s.regs.rxb[19] ++ s.regs.rxb[20] →
    (∀ (k : Fin 24) (e : Byte), k.val ≤ 18 → e ≠ 0x00 →
      ∃ t : State, exec .decode { s with regs := { s.regs with rxb := s.regs.rxb.set k (s.regs.rxb[k] ^^^ e) } } = .next t ∧
        t.regs.status.crcerr = true ∧ t.regs.status.dvalid = false ∧ t.regs.crc ≠ s.regs.rxb[19] ++ s.regs.rxb[20]) ∧
    (∀ b19 b20 : Byte, ¬ (b19 = s.regs.rxb[19] ∧ b20 = s.regs.rxb[20]) →
      ∃ t : State, exec .decode { s with regs := { s.regs with rxb := (s.regs.rxb.set 19 b19).set 20 b20 } } = .next t ∧
        t.regs.status.crcerr = true ∧ t.regs.status.dvalid = false)

/-! ## NOP and CLR_ERR -/

/-- 43_control.md R180: NOP changes nothing, and writing back what CMD reads is a NOP. -/
def Obligations.NopChangesNothing : Prop :=
  decodeCommand 0x00 = .assigned .nop ∧
  ∀ (s : State) (rest : List Event), exec .nop s = .next s ∧ busRead s.regs 0x00 = 0x00 ∧
    step { s with pending := .bus (.write 0x00 (busRead s.regs 0x00)) :: rest } = .next { s with pending := rest }

/-- 43_control.md R181: CLR_ERR clears ILLCMD and CRCERR and changes nothing else. -/
def Obligations.ClrErrClearsTheErrorFlags : Prop :=
  decodeCommand 0x30 = .assigned .clrErr ∧
  ∀ s : State, exec .clrErr s =
    .next { s with regs := { s.regs with status := { s.regs.status with illcmd := false, crcerr := false } } }

/-! ## The register bus -/

/-- 20_memory.md R62: the byte each offset returns, row by row, and that a read changes no register. -/
def Obligations.BusReadReturnsTheMappedByte : Prop :=
  (∀ (s : State) (off : Offset) (rest : List Event),
    step { s with pending := .bus (.read off) :: rest } =
      .next { s with pending := rest, reads := s.reads ++ [busRead s.regs off] }) ∧
  ∀ r : Regs,
    busRead r 0x00 = 0x00 ∧ busRead r 0x01 = r.arg ∧
    busRead r 0x02 = 0b000#3 ++ (BitVec.ofBool r.status.illcmd ++ (BitVec.ofBool r.status.txvalid ++
      (BitVec.ofBool r.status.dauto ++ (BitVec.ofBool r.status.crcerr ++ BitVec.ofBool r.status.dvalid)))) ∧
    busRead r 0x04 = r.crc.extractLsb' 8 8 ∧ busRead r 0x05 = r.crc.extractLsb' 0 8 ∧
    busRead r 0x06 = r.code ∧ busRead r 0x07 = r.seq ∧
    busRead r 0x08 = r.addr.extractLsb' 24 8 ∧ busRead r 0x09 = r.addr.extractLsb' 16 8 ∧
    busRead r 0x0A = r.addr.extractLsb' 8 8 ∧ busRead r 0x0B = r.addr.extractLsb' 0 8 ∧
    (∀ i : Fin 10, busRead r (BitVec.ofNat 7 (0x10 + i.val)) = r.txb[i]) ∧
    (∀ i : Fin 24, busRead r (BitVec.ofNat 7 (0x20 + i.val)) = r.rxb[i]) ∧
    busRead r 0x40 = r.decoded.state ∧ busRead r 0x41 = r.decoded.power ∧ busRead r 0x42 = r.decoded.volt10 ∧
    busRead r 0x43 = r.decoded.ambient ∧ busRead r 0x44 = r.decoded.caseTemp ∧ busRead r 0x45 = r.decoded.setpoint ∧
    busRead r 0x46 = r.decoded.mode ∧ busRead r 0x47 = r.decoded.pump10 ∧ busRead r 0x48 = r.decoded.lqraw ∧
    busRead r 0x49 = r.decoded.rssi.extractLsb' 8 8 ∧ busRead r 0x4A = r.decoded.rssi.extractLsb' 0 8 ∧
    ∀ off : Offset, (off = 0x03 ∨ (0x0C ≤ off ∧ off ≤ 0x0F) ∨ (0x1A ≤ off ∧ off ≤ 0x1F) ∨ (0x38 ≤ off ∧ off ≤ 0x3F) ∨
      0x4B ≤ off) → busRead r off = 0x00

/-- 20_memory.md R63: the effect of a write, row by row; a write to CMD runs its byte; any other offset ignores it. -/
def Obligations.BusWriteReplacesTheMappedByte : Prop :=
  ∀ (s : State) (v : Byte) (rest : List Event),
    let after : Offset → Host.Outcome State Fault Refusal := fun off => step { s with pending := .bus (.write off v) :: rest }
    let with' : Regs → Host.Outcome State Fault Refusal := fun r => .next { s with regs := r, pending := rest }
    after 0x00 = execute v { s with pending := rest } ∧
    after 0x01 = with' { s.regs with arg := v } ∧
    after 0x04 = with' { s.regs with crc := v ++ s.regs.crc.extractLsb' 0 8 } ∧
    after 0x05 = with' { s.regs with crc := s.regs.crc.extractLsb' 8 8 ++ v } ∧
    after 0x06 = with' { s.regs with code := v } ∧
    after 0x07 = with' { s.regs with seq := v } ∧
    after 0x08 = with' { s.regs with addr := v ++ s.regs.addr.extractLsb' 0 24 } ∧
    after 0x09 = with' { s.regs with addr := s.regs.addr.extractLsb' 24 8 ++ (v ++ s.regs.addr.extractLsb' 0 16) } ∧
    after 0x0A = with' { s.regs with addr := s.regs.addr.extractLsb' 16 16 ++ (v ++ s.regs.addr.extractLsb' 0 8) } ∧
    after 0x0B = with' { s.regs with addr := s.regs.addr.extractLsb' 8 24 ++ v } ∧
    (∀ i : Fin 24, after (BitVec.ofNat 7 (0x20 + i.val)) = with' { s.regs with rxb := s.regs.rxb.set i v }) ∧
    ∀ off : Offset, (off = 0x02 ∨ off = 0x03 ∨ (0x0C ≤ off ∧ off ≤ 0x1F) ∨ 0x38 ≤ off) → after off = with' s.regs

/-- 20_memory.md R65 and R66: a write to a read-only or reserved offset has no effect and sets no flag; a reserved offset
reads 0x00. -/
def Obligations.ReadOnlyAndReservedOffsetsIgnoreWrites : Prop :=
  ∀ (s : State) (off : Offset) (v : Byte) (rest : List Event),
    ((off = 0x02 ∨ (0x10 ≤ off ∧ off ≤ 0x19) ∨ (0x40 ≤ off ∧ off ≤ 0x4A)) →
      step { s with pending := .bus (.write off v) :: rest } = .next { s with pending := rest }) ∧
    ((off = 0x03 ∨ (0x0C ≤ off ∧ off ≤ 0x0F) ∨ (0x1A ≤ off ∧ off ≤ 0x1F) ∨ (0x38 ≤ off ∧ off ≤ 0x3F) ∨ 0x4B ≤ off) →
      step { s with pending := .bus (.write off v) :: rest } = .next { s with pending := rest } ∧ busRead s.regs off = 0x00)

/-- Read after write (derived, R62 and R63): a read/write offset then reads the byte written, and every other offset reads as
before. The clause "replaces exactly the byte addressed and nothing else" of R63, at every pair of offsets. -/
def Obligations.WrittenByteReadsBackAndNoOtherChanges : Prop :=
  ∀ (r : Regs) (off off' : Offset) (v : Byte),
    (off = 0x01 ∨ (0x04 ≤ off ∧ off ≤ 0x0B) ∨ (0x20 ≤ off ∧ off ≤ 0x37)) →
      busRead (storeByte r off v) off = v ∧ (off' ≠ off → busRead (storeByte r off v) off' = busRead r off')

/-- What each offset reads at reset: the reset column of the register map (derived, R44, R64, R66). -/
def Obligations.EveryOffsetReadsItsResetValue : Prop :=
  ∀ off : Offset, busRead State.reset.regs off = if off = 0x04 ∨ off = 0x05 then 0xFF else 0x00

/-- Derived (20_memory.md R72): reads have no side effect and are idempotent; a write is idempotent except at CMD, where two
CRC_UPDATEs fold ARG twice. -/
def Obligations.WritesAreIdempotentExceptAtCmd : Prop :=
  (∀ (s : State) (off : Offset) (rest : List Event), ∃ t u : State,
    step { s with pending := .bus (.read off) :: rest } = .next t ∧ t.regs = s.regs ∧
    step { t with pending := .bus (.read off) :: rest } = .next u ∧ u.regs = s.regs ∧
    u.reads = t.reads ++ [busRead s.regs off] ∧ t.reads = s.reads ++ [busRead s.regs off]) ∧
  (∀ (s : State) (off : Offset) (v : Byte) (rest : List Event), off ≠ 0x00 → ∃ t : State,
    step { s with pending := .bus (.write off v) :: rest } = .next t ∧
    step { t with pending := .bus (.write off v) :: rest } = .next t) ∧
  (∀ s : State, ∃ t u : State, exec .crcUpdate s = .next t ∧ exec .crcUpdate t = .next u ∧
    u.regs.crc = crcStep (crcStep s.regs.crc s.regs.arg) s.regs.arg) ∧
  ∃ s t u : State, exec .crcUpdate s = .next t ∧ exec .crcUpdate t = .next u ∧ u ≠ t

/-- 20_memory.md R73: the state after a sequence of events is the effect of each applied in turn: a run over two sequences,
one after the other, is the run over the second from the state that the run over the first leaves. -/
def Obligations.EventsTakeEffectInOrder : Prop :=
  ∀ (es es' : List Event) (s : State), ∃ t : State,
    Host.Core.run Sys2Proof.core es.length { s with pending := es } = .next t ∧ t.pending = [] ∧
    Host.Core.run Sys2Proof.core (es.length + es'.length) { s with pending := es ++ es' } =
      Host.Core.run Sys2Proof.core es'.length { t with pending := es' }

/-! ## What commands read and write -/

/-- Derived (30_encoding.md R91, its table): each command writes its result registers only, and what it writes depends only on the registers it
reads. -/
def Obligations.CommandsReadAndWriteTheirRegistersOnly : Prop :=
  (∀ s : State, exec .nop s = .next s) ∧
  (∀ s s' : State, ∃ t t' : State, exec .crcInit s = .next t ∧ exec .crcInit s' = .next t' ∧
    t = { s with regs := { s.regs with crc := t.regs.crc } } ∧ t'.regs.crc = t.regs.crc) ∧
  (∀ s s' : State, s'.regs.crc = s.regs.crc → s'.regs.arg = s.regs.arg → ∃ t t' : State,
    exec .crcUpdate s = .next t ∧ exec .crcUpdate s' = .next t' ∧
    t = { s with regs := { s.regs with crc := t.regs.crc } } ∧ t'.regs.crc = t.regs.crc) ∧
  (∀ s s' : State, s'.regs.code = s.regs.code → s'.regs.seq = s.regs.seq → s'.regs.addr = s.regs.addr → ∃ t t' : State,
    exec .encode s = .next t ∧ exec .encode s' = .next t' ∧
    t = { s with regs := { s.regs with
            txb := t.regs.txb, crc := t.regs.crc, status := { s.regs.status with txvalid := t.regs.status.txvalid } } } ∧
    t'.regs.txb = t.regs.txb ∧ t'.regs.crc = t.regs.crc ∧ t'.regs.status.txvalid = t.regs.status.txvalid) ∧
  (∀ s s' : State, s'.regs.rxb = s.regs.rxb → ∃ t t' : State,
    exec .decode s = .next t ∧ exec .decode s' = .next t' ∧
    t = { s with regs := { s.regs with
            crc := t.regs.crc
            decoded := t.regs.decoded
            status := { s.regs.status with dvalid := t.regs.status.dvalid, crcerr := t.regs.status.crcerr, dauto := t.regs.status.dauto } } } ∧
    t'.regs.crc = t.regs.crc ∧ t'.regs.decoded = t.regs.decoded ∧ t'.regs.status.dvalid = t.regs.status.dvalid ∧
    t'.regs.status.crcerr = t.regs.status.crcerr ∧ t'.regs.status.dauto = t.regs.status.dauto) ∧
  (∀ s s' : State, ∃ t t' : State, exec .clrErr s = .next t ∧ exec .clrErr s' = .next t' ∧
    t = { s with regs := { s.regs with status :=
            { s.regs.status with illcmd := t.regs.status.illcmd, crcerr := t.regs.status.crcerr } } } ∧
    t'.regs.status.illcmd = t.regs.status.illcmd ∧ t'.regs.status.crcerr = t.regs.status.crcerr) ∧
  (∀ s s' : State, ∃ t t' : State, exec .srst s = .next t ∧ exec .srst s' = .next t' ∧
    t = { s with regs := t.regs } ∧ t'.regs = t.regs) ∧
  ∀ (s s' : State) (v : Byte), decodeCommand v = .illegal → ∃ t t' : State,
    execute v s = .next t ∧ execute v s' = .next t' ∧
    t = { s with regs := { s.regs with status := { s.regs.status with illcmd := t.regs.status.illcmd } } } ∧
    t'.regs.status.illcmd = t.regs.status.illcmd

/-- Operand registers change only by the host's write of their own offset, or by SRST or reset (derived: 10_state.md R22 to
R25 and R27, "Commands read it and never write it"; 41_encode.md R134, "the block never increments it"). -/
def Obligations.OperandsChangeOnlyByTheirOwnWriteOrReset : Prop :=
  ∀ (s t : State) (e : Event) (rest : List Event), s.pending = e :: rest → step s = .next t →
    let isReset : Prop := e = .reset ∨ (∃ x, e = .resetDuring x) ∨ e = .bus (.write 0x00 0xFF)
    (t.regs.arg ≠ s.regs.arg → isReset ∨ ∃ v, e = .bus (.write 0x01 v) ∧ t.regs.arg = v) ∧
    (t.regs.code ≠ s.regs.code → isReset ∨ ∃ v, e = .bus (.write 0x06 v) ∧ t.regs.code = v) ∧
    (t.regs.seq ≠ s.regs.seq → isReset ∨ ∃ v, e = .bus (.write 0x07 v) ∧ t.regs.seq = v) ∧
    (t.regs.addr ≠ s.regs.addr → isReset ∨ ∃ off v, 0x08 ≤ off ∧ off ≤ 0x0B ∧ e = .bus (.write off v)) ∧
    (t.regs.rxb ≠ s.regs.rxb → isReset ∨ ∃ off v, 0x20 ≤ off ∧ off ≤ 0x37 ∧ e = .bus (.write off v))

/-- "Only ENCODE, reset and SRST write it" (derived: 10_state.md R26; 42_decode.md for the D_ registers: only DECODE, reset
and SRST do, 10_state.md before R30). -/
def Obligations.ResultBuffersChangeOnlyByTheirCommandOrReset : Prop :=
  ∀ (s t : State) (e : Event) (rest : List Event), s.pending = e :: rest → step s = .next t →
    let isReset : Prop := e = .reset ∨ (∃ x, e = .resetDuring x) ∨ e = .bus (.write 0x00 0xFF)
    (t.regs.txb ≠ s.regs.txb → isReset ∨ e = .bus (.write 0x00 0x10)) ∧
    (t.regs.decoded ≠ s.regs.decoded → isReset ∨ e = .bus (.write 0x00 0x20))

/-- 70_reset_and_hazards.md R242: writes to CODE, SEQ, ADDR or RXB do not change TXB, the D_ registers or the flags, any
number of them in any order. -/
def Obligations.OperandWritesLeaveTheSnapshots : Prop :=
  ∀ (ws : List (Offset × Byte)) (s : State) (rest : List Event),
    (∀ w ∈ ws, (0x06 ≤ w.1 ∧ w.1 ≤ 0x0B) ∨ (0x20 ≤ w.1 ∧ w.1 ≤ 0x37)) →
    ∃ t : State,
      Host.Core.run Sys2Proof.core ws.length { s with pending := (ws.map fun w => .bus (.write w.1 w.2)) ++ rest } = .next t ∧
      t.pending = rest ∧ t.regs.txb = s.regs.txb ∧ t.regs.decoded = s.regs.decoded ∧ t.regs.status = s.regs.status

/-- Saving and restoring the accumulator around ENCODE or DECODE (derived: 70_reset_and_hazards.md R244): both overwrite CRC,
and writing back the two bytes read before restores it. -/
def Obligations.SavedAccumulatorIsRestored : Prop :=
  ∀ (s : State) (i : Instr) (rest : List Event), i = .encode ∨ i = .decode → ∃ t u : State,
    Host.Core.run Sys2Proof.core 3
      { s with pending := .bus (.read 0x04) :: .bus (.read 0x05) :: .bus (.write 0x00 (encode i)) :: rest } = .next t ∧
    t.reads = s.reads ++ [busRead s.regs 0x04, busRead s.regs 0x05] ∧ t.pending = rest ∧
    Host.Core.run Sys2Proof.core 2
      { t with pending := .bus (.write 0x04 (busRead s.regs 0x04)) :: .bus (.write 0x05 (busRead s.regs 0x05)) :: rest } = .next u ∧
    u = { t with regs := { t.regs with crc := s.regs.crc } }

/-! ## Error events and flags -/

/-- 10_state.md R28: the layout of STATUS, and for each flag every event that can set it and every event that can clear it. -/
def Obligations.FlagsChangeOnlyAsTheTableSays : Prop :=
  (∀ r : Regs,
    (busRead r 0x02).getLsbD 0 = r.status.dvalid ∧ (busRead r 0x02).getLsbD 1 = r.status.crcerr ∧
    (busRead r 0x02).getLsbD 2 = r.status.dauto ∧ (busRead r 0x02).getLsbD 3 = r.status.txvalid ∧
    (busRead r 0x02).getLsbD 4 = r.status.illcmd ∧ (busRead r 0x02).extractLsb' 5 3 = 0) ∧
  State.reset.regs.status = { dvalid := false, crcerr := false, dauto := false, txvalid := false, illcmd := false } ∧
  (∀ (s : State) (off : Offset) (v : Byte) (rest : List Event), off ≠ 0x00 → ∃ t : State,
    step { s with pending := .bus (.write off v) :: rest } = .next t ∧ t.regs.status = s.regs.status) ∧
  ∀ (s t : State) (e : Event) (rest : List Event), s.pending = e :: rest → step s = .next t →
    let isReset : Prop := e = .reset ∨ (∃ x, e = .resetDuring x) ∨ e = .bus (.write 0x00 0xFF)
    let isDecode : Prop := e = .bus (.write 0x00 0x20)
    let passes : Prop := crc16 (s.regs.rxb.toList.take 19) = s.regs.rxb[19] ++ s.regs.rxb[20]
    (s.regs.status.dvalid = false → (t.regs.status.dvalid = true ↔ isDecode ∧ passes)) ∧
    (s.regs.status.dvalid = true → (t.regs.status.dvalid = false ↔ (isDecode ∧ ¬ passes) ∨ isReset)) ∧
    (s.regs.status.crcerr = false → (t.regs.status.crcerr = true ↔ isDecode ∧ ¬ passes)) ∧
    (s.regs.status.crcerr = true →
      (t.regs.status.crcerr = false ↔ (isDecode ∧ passes) ∨ e = .bus (.write 0x00 0x30) ∨ isReset)) ∧
    (s.regs.status.dauto = false → (t.regs.status.dauto = true ↔ isDecode ∧ passes ∧ s.regs.rxb[14] = 0x32)) ∧
    (s.regs.status.dauto = true →
      (t.regs.status.dauto = false ↔ (isDecode ∧ passes ∧ s.regs.rxb[14] ≠ 0x32) ∨ (isDecode ∧ ¬ passes) ∨ isReset)) ∧
    (s.regs.status.txvalid = false → (t.regs.status.txvalid = true ↔ e = .bus (.write 0x00 0x10))) ∧
    (s.regs.status.txvalid = true → (t.regs.status.txvalid = false ↔ isReset)) ∧
    (s.regs.status.illcmd = false →
      (t.regs.status.illcmd = true ↔ ∃ v, e = .bus (.write 0x00 v) ∧ decodeCommand v = .illegal)) ∧
    (s.regs.status.illcmd = true → (t.regs.status.illcmd = false ↔ e = .bus (.write 0x00 0x30) ∨ isReset))

/-- 60_exceptions.md R201: a checksum failure is reported by CRCERR = 1 and DVALID = 0, with the computed CRC in CRC and the
failing frame left in RXB; CRCERR then holds over every event but a DECODE that succeeds, CLR_ERR, SRST and reset. -/
def Obligations.ChecksumFailureIsReportedAndHeld : Prop :=
  (∀ (s : State) (rest : List Event), crc16 (s.regs.rxb.toList.take 19) ≠ s.regs.rxb[19] ++ s.regs.rxb[20] →
    ∃ t : State, step { s with pending := .bus (.write 0x00 0x20) :: rest } = .next t ∧
      t.regs.status.crcerr = true ∧ t.regs.status.dvalid = false ∧ t.regs.crc = crc16 (s.regs.rxb.toList.take 19) ∧
      t.regs.rxb = s.regs.rxb ∧ t.pending = rest) ∧
  ∀ (s t : State) (e : Event) (rest : List Event), s.pending = e :: rest → step s = .next t →
    (s.regs.status.crcerr = false → t.regs.status.crcerr = true →
      e = .bus (.write 0x00 0x20) ∧ crc16 (s.regs.rxb.toList.take 19) ≠ s.regs.rxb[19] ++ s.regs.rxb[20]) ∧
    (s.regs.status.crcerr = true → t.regs.status.crcerr = false →
      (e = .bus (.write 0x00 0x20) ∧ crc16 (s.regs.rxb.toList.take 19) = s.regs.rxb[19] ++ s.regs.rxb[20]) ∨
      e = .bus (.write 0x00 0x30) ∨ e = .bus (.write 0x00 0xFF) ∨ e = .reset ∨ ∃ x, e = .resetDuring x)

/-- 60_exceptions.md R202 and 43_control.md R183: an unassigned byte sets ILLCMD, records nothing and changes nothing else;
the flag is sticky until CLR_ERR, SRST or reset, through any number of other events. -/
def Obligations.IllegalCommandFlagIsSticky : Prop :=
  (∀ (s : State) (rest : List Event) (v : Byte),
    (0x03 ≤ v ∧ v ≤ 0x0F) ∨ (0x11 ≤ v ∧ v ≤ 0x1F) ∨ (0x21 ≤ v ∧ v ≤ 0x2F) ∨ (0x31 ≤ v ∧ v ≤ 0xFE) →
    step { s with pending := .bus (.write 0x00 v) :: rest } =
      .next { s with regs := { s.regs with status := { s.regs.status with illcmd := true } }, pending := rest }) ∧
  ∀ (es : List Event) (s : State) (rest : List Event), s.regs.status.illcmd = true →
    (∀ e ∈ es, e ≠ .bus (.write 0x00 0x30) ∧ e ≠ .bus (.write 0x00 0xFF) ∧ e ≠ .reset ∧ ∀ x, e ≠ .resetDuring x) →
    ∃ t : State, Host.Core.run Sys2Proof.core es.length { s with pending := es ++ rest } = .next t ∧
      t.regs.status.illcmd = true ∧ t.pending = rest

/-- Derived (60_exceptions.md R206): no step raises two error events; and both flags can be 1 at once. -/
def Obligations.AtMostOneErrorEventPerStep : Prop :=
  (∀ s t : State, step s = .next t →
    ¬ ((s.regs.status.crcerr = false ∧ t.regs.status.crcerr = true) ∧ (s.regs.status.illcmd = false ∧ t.regs.status.illcmd = true))) ∧
  ∃ t : State, Host.Core.run Sys2Proof.core 2
      { State.reset with pending := [.bus (.write 0x00 0x03), .bus (.write 0x00 0x20)] } = .next t ∧
    t.regs.status.crcerr = true ∧ t.regs.status.illcmd = true

/-! ## The whole machine -/

/-- 60_exceptions.md R216: the step is total: for every state it gives one successor state, it takes at most the one event
at the head, and a completed read gives exactly one byte. -/
def Obligations.EveryStepCompletes : Prop :=
  ∀ s : State, ∃ t : State, step s = .next t ∧ t.pending = s.pending.tail ∧
    (∀ off rest, s.pending = .bus (.read off) :: rest → ∃ b, t.reads = s.reads ++ [b]) ∧
    (∀ off v rest, s.pending = .bus (.write off v) :: rest → t.reads = s.reads)

/-- With no event waiting a step changes nothing. The model's own choice (notes/assumptions/2.md), inferred from 20_memory.md
R60, "no other way to change the block's state". -/
def Obligations.IdleStepChangesNothing : Prop :=
  ∀ s : State, s.pending = [] → step s = .next s

/-- An invariant of every step, from every state that meets it (derived: 10_state.md R29): DVALID and CRCERR are never both 1, and
DAUTO = 1 implies DVALID = 1. -/
def Obligations.FlagPairsStayLegal : Prop :=
  ∀ s t : State, s.regs.flagsLegal → step s = .next t → t.regs.flagsLegal

/-- An invariant of every step (derived: 10_state.md R26, R28; 41_encode.md R133): while TXVALID is 1, TXB holds a frame with
length byte 9, pad 0 and its own CRC; while it is 0, TXB is all zero. -/
def Obligations.TransmitBufferStaysAValidFrame : Prop :=
  ∀ s t : State, s.regs.txbLegal → step s = .next t → t.regs.txbLegal

/-- An invariant of every step (derived: 10_state.md R39, 42_decode.md R153, R158, R159): while DVALID is 1, D_RSSI and DAUTO
agree with the raw bytes D_LQRAW and D_MODE; while it is 0, every D_ register is zero. -/
def Obligations.DecodedRegistersStayConsistent : Prop :=
  ∀ s t : State, s.regs.decodedLegal → step s = .next t → t.regs.decodedLegal

/-- The three invariants hold after reset (derived: R29, R44). -/
def Obligations.ResetStateIsLegal : Prop :=
  State.reset.regs.flagsLegal ∧ State.reset.regs.txbLegal ∧ State.reset.regs.decodedLegal

/-! ## Host programs -/

/-- The loading pseudo-instructions of 30_encoding.md R98 have the effect they are named for, from every state (derived): the
bytes go in high byte first, and nothing else changes. -/
def Obligations.LoadingPseudoInstructionsLoad : Prop :=
  ∀ (s : State) (rest : List Event),
    (∀ c : Half, Host.Core.run Sys2Proof.core 2 { s with pending := programEvents [.setcrc c.toNat] ++ rest } =
      .next { s with regs := { s.regs with crc := c }, pending := rest }) ∧
    (∀ a : Word, Host.Core.run Sys2Proof.core 4 { s with pending := programEvents [.setaddr a.toNat] ++ rest } =
      .next { s with regs := { s.regs with addr := a }, pending := rest }) ∧
    (∀ code seq : Byte, Host.Core.run Sys2Proof.core 2
        { s with pending := programEvents [.setcmd code.toNat seq.toNat] ++ rest } =
      .next { s with regs := { s.regs with code := code, seq := seq }, pending := rest }) ∧
    (∀ f : Vector Byte 24, Host.Core.run Sys2Proof.core 24
        { s with pending := programEvents [.ldrx (f.toList.map BitVec.toNat)] ++ rest } =
      .next { s with regs := { s.regs with rxb := f }, pending := rest })

/-- The reading pseudo-instructions of 30_encoding.md R98 bind the register they are named for (derived). -/
def Obligations.ReadingPseudoInstructionsBind : Prop :=
  ∀ (s : State) (name : List Char),
    (∃ t : State, Host.Core.run Sys2Proof.core 2 { s with pending := programEvents [.rdcrc name], reads := [] } = .next t ∧
      t.regs = s.regs ∧ bindings [.rdcrc name] t.reads = [(name, .word s.regs.crc)]) ∧
    (∃ t : State, Host.Core.run Sys2Proof.core 10 { s with pending := programEvents [.rdtx name], reads := [] } = .next t ∧
      t.regs = s.regs ∧ bindings [.rdtx name] t.reads = [(name, .frame s.regs.txb.toList)]) ∧
    (∃ t : State, Host.Core.run Sys2Proof.core 2 { s with pending := programEvents [.rdrssi name], reads := [] } = .next t ∧
      t.regs = s.regs ∧ bindings [.rdrssi name] t.reads = [(name, .signed s.regs.decoded.rssi.toInt)])
end

