-- ==== Sys2Proof/Laws/State.lean ====
section
/-! SUPPORT. One lemma per field per update of the registers and of the machine, true by rfl. -/

namespace Sys2Proof.Machine

open Sys2Proof

section RegisterUpdates

@[simp] theorem Regs.setCrc_crc (r : Regs) (v : Half) : (r.setCrc v).crc = v := rfl
@[simp] theorem Regs.setCrc_arg (r : Regs) (v : Half) : (r.setCrc v).arg = r.arg := rfl
@[simp] theorem Regs.setCrc_code (r : Regs) (v : Half) : (r.setCrc v).code = r.code := rfl
@[simp] theorem Regs.setCrc_seq (r : Regs) (v : Half) : (r.setCrc v).seq = r.seq := rfl
@[simp] theorem Regs.setCrc_addr (r : Regs) (v : Half) : (r.setCrc v).addr = r.addr := rfl
@[simp] theorem Regs.setCrc_txb (r : Regs) (v : Half) : (r.setCrc v).txb = r.txb := rfl
@[simp] theorem Regs.setCrc_rxb (r : Regs) (v : Half) : (r.setCrc v).rxb = r.rxb := rfl
@[simp] theorem Regs.setCrc_status (r : Regs) (v : Half) : (r.setCrc v).status = r.status := rfl
@[simp] theorem Regs.setCrc_decoded (r : Regs) (v : Half) : (r.setCrc v).decoded = r.decoded := rfl

@[simp] theorem Regs.setArg_crc (r : Regs) (v : Byte) : (r.setArg v).crc = r.crc := rfl
@[simp] theorem Regs.setArg_arg (r : Regs) (v : Byte) : (r.setArg v).arg = v := rfl
@[simp] theorem Regs.setArg_code (r : Regs) (v : Byte) : (r.setArg v).code = r.code := rfl
@[simp] theorem Regs.setArg_seq (r : Regs) (v : Byte) : (r.setArg v).seq = r.seq := rfl
@[simp] theorem Regs.setArg_addr (r : Regs) (v : Byte) : (r.setArg v).addr = r.addr := rfl
@[simp] theorem Regs.setArg_txb (r : Regs) (v : Byte) : (r.setArg v).txb = r.txb := rfl
@[simp] theorem Regs.setArg_rxb (r : Regs) (v : Byte) : (r.setArg v).rxb = r.rxb := rfl
@[simp] theorem Regs.setArg_status (r : Regs) (v : Byte) : (r.setArg v).status = r.status := rfl
@[simp] theorem Regs.setArg_decoded (r : Regs) (v : Byte) : (r.setArg v).decoded = r.decoded := rfl

@[simp] theorem Regs.setCode_crc (r : Regs) (v : Byte) : (r.setCode v).crc = r.crc := rfl
@[simp] theorem Regs.setCode_arg (r : Regs) (v : Byte) : (r.setCode v).arg = r.arg := rfl
@[simp] theorem Regs.setCode_code (r : Regs) (v : Byte) : (r.setCode v).code = v := rfl
@[simp] theorem Regs.setCode_seq (r : Regs) (v : Byte) : (r.setCode v).seq = r.seq := rfl
@[simp] theorem Regs.setCode_addr (r : Regs) (v : Byte) : (r.setCode v).addr = r.addr := rfl
@[simp] theorem Regs.setCode_txb (r : Regs) (v : Byte) : (r.setCode v).txb = r.txb := rfl
@[simp] theorem Regs.setCode_rxb (r : Regs) (v : Byte) : (r.setCode v).rxb = r.rxb := rfl
@[simp] theorem Regs.setCode_status (r : Regs) (v : Byte) : (r.setCode v).status = r.status := rfl
@[simp] theorem Regs.setCode_decoded (r : Regs) (v : Byte) : (r.setCode v).decoded = r.decoded := rfl

@[simp] theorem Regs.setSeq_crc (r : Regs) (v : Byte) : (r.setSeq v).crc = r.crc := rfl
@[simp] theorem Regs.setSeq_arg (r : Regs) (v : Byte) : (r.setSeq v).arg = r.arg := rfl
@[simp] theorem Regs.setSeq_code (r : Regs) (v : Byte) : (r.setSeq v).code = r.code := rfl
@[simp] theorem Regs.setSeq_seq (r : Regs) (v : Byte) : (r.setSeq v).seq = v := rfl
@[simp] theorem Regs.setSeq_addr (r : Regs) (v : Byte) : (r.setSeq v).addr = r.addr := rfl
@[simp] theorem Regs.setSeq_txb (r : Regs) (v : Byte) : (r.setSeq v).txb = r.txb := rfl
@[simp] theorem Regs.setSeq_rxb (r : Regs) (v : Byte) : (r.setSeq v).rxb = r.rxb := rfl
@[simp] theorem Regs.setSeq_status (r : Regs) (v : Byte) : (r.setSeq v).status = r.status := rfl
@[simp] theorem Regs.setSeq_decoded (r : Regs) (v : Byte) : (r.setSeq v).decoded = r.decoded := rfl

@[simp] theorem Regs.setAddr_crc (r : Regs) (v : Word) : (r.setAddr v).crc = r.crc := rfl
@[simp] theorem Regs.setAddr_arg (r : Regs) (v : Word) : (r.setAddr v).arg = r.arg := rfl
@[simp] theorem Regs.setAddr_code (r : Regs) (v : Word) : (r.setAddr v).code = r.code := rfl
@[simp] theorem Regs.setAddr_seq (r : Regs) (v : Word) : (r.setAddr v).seq = r.seq := rfl
@[simp] theorem Regs.setAddr_addr (r : Regs) (v : Word) : (r.setAddr v).addr = v := rfl
@[simp] theorem Regs.setAddr_txb (r : Regs) (v : Word) : (r.setAddr v).txb = r.txb := rfl
@[simp] theorem Regs.setAddr_rxb (r : Regs) (v : Word) : (r.setAddr v).rxb = r.rxb := rfl
@[simp] theorem Regs.setAddr_status (r : Regs) (v : Word) : (r.setAddr v).status = r.status := rfl
@[simp] theorem Regs.setAddr_decoded (r : Regs) (v : Word) : (r.setAddr v).decoded = r.decoded := rfl

@[simp] theorem Regs.setTxb_crc (r : Regs) (v : Vector Byte 10) : (r.setTxb v).crc = r.crc := rfl
@[simp] theorem Regs.setTxb_arg (r : Regs) (v : Vector Byte 10) : (r.setTxb v).arg = r.arg := rfl
@[simp] theorem Regs.setTxb_code (r : Regs) (v : Vector Byte 10) : (r.setTxb v).code = r.code := rfl
@[simp] theorem Regs.setTxb_seq (r : Regs) (v : Vector Byte 10) : (r.setTxb v).seq = r.seq := rfl
@[simp] theorem Regs.setTxb_addr (r : Regs) (v : Vector Byte 10) : (r.setTxb v).addr = r.addr := rfl
@[simp] theorem Regs.setTxb_txb (r : Regs) (v : Vector Byte 10) : (r.setTxb v).txb = v := rfl
@[simp] theorem Regs.setTxb_rxb (r : Regs) (v : Vector Byte 10) : (r.setTxb v).rxb = r.rxb := rfl
@[simp] theorem Regs.setTxb_status (r : Regs) (v : Vector Byte 10) : (r.setTxb v).status = r.status := rfl
@[simp] theorem Regs.setTxb_decoded (r : Regs) (v : Vector Byte 10) : (r.setTxb v).decoded = r.decoded := rfl

@[simp] theorem Regs.setRxb_crc (r : Regs) (v : Vector Byte 24) : (r.setRxb v).crc = r.crc := rfl
@[simp] theorem Regs.setRxb_arg (r : Regs) (v : Vector Byte 24) : (r.setRxb v).arg = r.arg := rfl
@[simp] theorem Regs.setRxb_code (r : Regs) (v : Vector Byte 24) : (r.setRxb v).code = r.code := rfl
@[simp] theorem Regs.setRxb_seq (r : Regs) (v : Vector Byte 24) : (r.setRxb v).seq = r.seq := rfl
@[simp] theorem Regs.setRxb_addr (r : Regs) (v : Vector Byte 24) : (r.setRxb v).addr = r.addr := rfl
@[simp] theorem Regs.setRxb_txb (r : Regs) (v : Vector Byte 24) : (r.setRxb v).txb = r.txb := rfl
@[simp] theorem Regs.setRxb_rxb (r : Regs) (v : Vector Byte 24) : (r.setRxb v).rxb = v := rfl
@[simp] theorem Regs.setRxb_status (r : Regs) (v : Vector Byte 24) : (r.setRxb v).status = r.status := rfl
@[simp] theorem Regs.setRxb_decoded (r : Regs) (v : Vector Byte 24) : (r.setRxb v).decoded = r.decoded := rfl

@[simp] theorem Regs.setStatus_crc (r : Regs) (v : Status) : (r.setStatus v).crc = r.crc := rfl
@[simp] theorem Regs.setStatus_arg (r : Regs) (v : Status) : (r.setStatus v).arg = r.arg := rfl
@[simp] theorem Regs.setStatus_code (r : Regs) (v : Status) : (r.setStatus v).code = r.code := rfl
@[simp] theorem Regs.setStatus_seq (r : Regs) (v : Status) : (r.setStatus v).seq = r.seq := rfl
@[simp] theorem Regs.setStatus_addr (r : Regs) (v : Status) : (r.setStatus v).addr = r.addr := rfl
@[simp] theorem Regs.setStatus_txb (r : Regs) (v : Status) : (r.setStatus v).txb = r.txb := rfl
@[simp] theorem Regs.setStatus_rxb (r : Regs) (v : Status) : (r.setStatus v).rxb = r.rxb := rfl
@[simp] theorem Regs.setStatus_status (r : Regs) (v : Status) : (r.setStatus v).status = v := rfl
@[simp] theorem Regs.setStatus_decoded (r : Regs) (v : Status) : (r.setStatus v).decoded = r.decoded := rfl

@[simp] theorem Regs.setDecoded_crc (r : Regs) (v : Decoded) : (r.setDecoded v).crc = r.crc := rfl
@[simp] theorem Regs.setDecoded_arg (r : Regs) (v : Decoded) : (r.setDecoded v).arg = r.arg := rfl
@[simp] theorem Regs.setDecoded_code (r : Regs) (v : Decoded) : (r.setDecoded v).code = r.code := rfl
@[simp] theorem Regs.setDecoded_seq (r : Regs) (v : Decoded) : (r.setDecoded v).seq = r.seq := rfl
@[simp] theorem Regs.setDecoded_addr (r : Regs) (v : Decoded) : (r.setDecoded v).addr = r.addr := rfl
@[simp] theorem Regs.setDecoded_txb (r : Regs) (v : Decoded) : (r.setDecoded v).txb = r.txb := rfl
@[simp] theorem Regs.setDecoded_rxb (r : Regs) (v : Decoded) : (r.setDecoded v).rxb = r.rxb := rfl
@[simp] theorem Regs.setDecoded_status (r : Regs) (v : Decoded) : (r.setDecoded v).status = r.status := rfl
@[simp] theorem Regs.setDecoded_decoded (r : Regs) (v : Decoded) : (r.setDecoded v).decoded = v := rfl

end RegisterUpdates

section MachineUpdates

@[simp] theorem State.withRegs_regs (s : State) (x : Regs) : (s.withRegs x).regs = x := rfl
@[simp] theorem State.withRegs_pending (s : State) (x : Regs) : (s.withRegs x).pending = s.pending := rfl
@[simp] theorem State.withRegs_reads (s : State) (x : Regs) : (s.withRegs x).reads = s.reads := rfl
@[simp] theorem State.withRegs_draws (s : State) (x : Regs) : (s.withRegs x).draws = s.draws := rfl

@[simp] theorem State.withPending_regs (s : State) (x : List Event) : (s.withPending x).regs = s.regs := rfl
@[simp] theorem State.withPending_pending (s : State) (x : List Event) : (s.withPending x).pending = x := rfl
@[simp] theorem State.withPending_reads (s : State) (x : List Event) : (s.withPending x).reads = s.reads := rfl
@[simp] theorem State.withPending_draws (s : State) (x : List Event) : (s.withPending x).draws = s.draws := rfl

@[simp] theorem State.pushRead_regs (s : State) (x : Byte) : (s.pushRead x).regs = s.regs := rfl
@[simp] theorem State.pushRead_pending (s : State) (x : Byte) : (s.pushRead x).pending = s.pending := rfl
@[simp] theorem State.pushRead_reads (s : State) (x : Byte) : (s.pushRead x).reads = s.reads ++ [x] := rfl
@[simp] theorem State.pushRead_draws (s : State) (x : Byte) : (s.pushRead x).draws = s.draws := rfl

@[simp] theorem State.pushFreeRead_regs (s : State) : (s.pushFreeRead).regs = s.regs := rfl
@[simp] theorem State.pushFreeRead_pending (s : State) : (s.pushFreeRead).pending = s.pending := rfl
@[simp] theorem State.pushFreeRead_reads (s : State) : (s.pushFreeRead).reads = s.reads ++ [Config.freeByte s.draws] := rfl
@[simp] theorem State.pushFreeRead_draws (s : State) : (s.pushFreeRead).draws = s.draws + 1 := rfl

/-- A state whose next event is given is the state with its pending list replaced. -/
theorem State.with_pending_eq (s : State) (es : List Event) : { s with pending := es } = s.withPending es := rfl

end MachineUpdates

section FlagUpdates

@[simp] theorem flagEncoded_dvalid (f : Status) : (flagEncoded f).dvalid = f.dvalid := rfl
@[simp] theorem flagEncoded_crcerr (f : Status) : (flagEncoded f).crcerr = f.crcerr := rfl
@[simp] theorem flagEncoded_dauto (f : Status) : (flagEncoded f).dauto = f.dauto := rfl
@[simp] theorem flagEncoded_txvalid (f : Status) : (flagEncoded f).txvalid = true := rfl
@[simp] theorem flagEncoded_illcmd (f : Status) : (flagEncoded f).illcmd = f.illcmd := rfl

@[simp] theorem flagDecoded_dvalid (auto : Bool) (f : Status) : (flagDecoded auto f).dvalid = true := rfl
@[simp] theorem flagDecoded_crcerr (auto : Bool) (f : Status) : (flagDecoded auto f).crcerr = false := rfl
@[simp] theorem flagDecoded_dauto (auto : Bool) (f : Status) : (flagDecoded auto f).dauto = auto := rfl
@[simp] theorem flagDecoded_txvalid (auto : Bool) (f : Status) : (flagDecoded auto f).txvalid = f.txvalid := rfl
@[simp] theorem flagDecoded_illcmd (auto : Bool) (f : Status) : (flagDecoded auto f).illcmd = f.illcmd := rfl

@[simp] theorem flagChecksumFailure_dvalid (f : Status) : (flagChecksumFailure f).dvalid = false := rfl
@[simp] theorem flagChecksumFailure_crcerr (f : Status) : (flagChecksumFailure f).crcerr = true := rfl
@[simp] theorem flagChecksumFailure_dauto (f : Status) : (flagChecksumFailure f).dauto = false := rfl
@[simp] theorem flagChecksumFailure_txvalid (f : Status) : (flagChecksumFailure f).txvalid = f.txvalid := rfl
@[simp] theorem flagChecksumFailure_illcmd (f : Status) : (flagChecksumFailure f).illcmd = f.illcmd := rfl

@[simp] theorem flagErrorsCleared_dvalid (f : Status) : (flagErrorsCleared f).dvalid = f.dvalid := rfl
@[simp] theorem flagErrorsCleared_crcerr (f : Status) : (flagErrorsCleared f).crcerr = false := rfl
@[simp] theorem flagErrorsCleared_dauto (f : Status) : (flagErrorsCleared f).dauto = f.dauto := rfl
@[simp] theorem flagErrorsCleared_txvalid (f : Status) : (flagErrorsCleared f).txvalid = f.txvalid := rfl
@[simp] theorem flagErrorsCleared_illcmd (f : Status) : (flagErrorsCleared f).illcmd = false := rfl

@[simp] theorem flagIllegalCommand_dvalid (f : Status) : (flagIllegalCommand f).dvalid = f.dvalid := rfl
@[simp] theorem flagIllegalCommand_crcerr (f : Status) : (flagIllegalCommand f).crcerr = f.crcerr := rfl
@[simp] theorem flagIllegalCommand_dauto (f : Status) : (flagIllegalCommand f).dauto = f.dauto := rfl
@[simp] theorem flagIllegalCommand_txvalid (f : Status) : (flagIllegalCommand f).txvalid = f.txvalid := rfl
@[simp] theorem flagIllegalCommand_illcmd (f : Status) : (flagIllegalCommand f).illcmd = true := rfl

end FlagUpdates

end Sys2Proof.Machine
end

