-- ==== Sys2Proof/Laws/Ops.lean ====
section
/-! SUPPORT. For each shared operation, once, all that it can do. -/

namespace Sys2Proof.Machine

open Sys2Proof

/-! ## Bytes of a multi-byte value -/

/-- The bits of a joined pair of bytes. -/
theorem joinBytes_getLsbD (h l : Byte) (i : Nat) :
    (joinBytes h l).getLsbD i = if i < 8 then l.getLsbD i else h.getLsbD (i - 8) :=
  BitVec.getLsbD_append

theorem highByte_getLsbD (v : Half) (i : Nat) : (highByte v).getLsbD i = (decide (i < 8) && v.getLsbD (8 + i)) := by
  simp [highByte]

theorem lowByte_getLsbD (v : Half) (i : Nat) : (lowByte v).getLsbD i = (decide (i < 8) && v.getLsbD i) := by
  simp [lowByte]

@[simp] theorem highByte_joinBytes (h l : Byte) : highByte (joinBytes h l) = h := by
  apply BitVec.eq_of_getLsbD_eq
  intro i hi
  rw [highByte_getLsbD, joinBytes_getLsbD, if_neg (by omega), Nat.add_sub_cancel_left, decide_eq_true hi, Bool.true_and]

@[simp] theorem lowByte_joinBytes (h l : Byte) : lowByte (joinBytes h l) = l := by
  apply BitVec.eq_of_getLsbD_eq
  intro i hi
  rw [lowByte_getLsbD, joinBytes_getLsbD, if_pos hi, decide_eq_true hi, Bool.true_and]

@[simp] theorem joinBytes_high_low (v : Half) : joinBytes (highByte v) (lowByte v) = v := by
  apply BitVec.eq_of_getLsbD_eq
  intro i hi
  rw [joinBytes_getLsbD]
  split
  · next h => rw [lowByte_getLsbD, decide_eq_true h, Bool.true_and]
  · next h =>
    rw [highByte_getLsbD, decide_eq_true (by omega), Bool.true_and, Nat.add_sub_cancel' (by omega)]

/-! ## The CRC -/

theorem crc16_nil : crc16 [] = Config.crcInit := rfl

theorem crc16_append (m m' : List Byte) : crc16 (m ++ m') = m'.foldl crcStep (crc16 m) := by
  simp [crc16]

/-! ## Commands -/

/-- A command that completes answers exactly one next state. -/
theorem complete_eq_next {f : Regs → Regs} {s t : State} : complete f s = .next t ↔ t = s.withRegs (f s.regs) := by
  simp [complete, eq_comm]

/-- The register effect of each command. -/
def commandEffect : Instr → Regs → Regs
  | .nop, r => r
  | .crcInit, r => r.setCrc Config.crcInit
  | .crcUpdate, r => r.setCrc (crcStep r.crc r.arg)
  | .encode, r => ((r.setTxb (commandFrame r)).setCrc (commandCrc r)).setStatus (flagEncoded r.status)
  | .decode, r => (if crcOk r.rxb then commitDecoded r else discardDecoded r).setCrc (statusCrc r.rxb)
  | .clrErr, r => r.setStatus (flagErrorsCleared r.status)
  | .srst, _ => Regs.reset

/-- Every command is its register effect, and touches nothing of the port's record. -/
theorem exec_eq_complete (i : Instr) (s : State) : exec i s = complete (commandEffect i) s := by
  cases i <;> rfl

/-- The register effect of each byte written to CMD. -/
def executeEffect (v : Byte) (r : Regs) : Regs :=
  match decodeCommand v with
  | .assigned i => commandEffect i r
  | .illegal => r.setStatus (flagIllegalCommand r.status)

theorem executeEffect_assigned {v : Byte} {i : Instr} (h : decodeCommand v = .assigned i) (r : Regs) :
    executeEffect v r = commandEffect i r := by
  rw [executeEffect, h]

theorem executeEffect_illegal {v : Byte} (h : decodeCommand v = .illegal) (r : Regs) :
    executeEffect v r = r.setStatus (flagIllegalCommand r.status) := by
  rw [executeEffect, h]

/-- What a byte written to CMD does. -/
theorem execute_eq_complete (v : Byte) (s : State) : execute v s = complete (executeEffect v) s := by
  unfold execute executeEffect
  cases decodeCommand v with
  | assigned i => exact exec_eq_complete i s
  | illegal => rfl

/-! ## The offset map -/

theorem slotAt_txb {off : Offset} (h : 0x10 ≤ off.toNat ∧ off.toNat ≤ 0x19) :
    slotAt off = .txb ⟨off.toNat - 0x10, by omega⟩ := by
  revert off
  decide

theorem slotAt_rxb {off : Offset} (h : 0x20 ≤ off.toNat ∧ off.toNat ≤ 0x37) :
    slotAt off = .rxb ⟨off.toNat - 0x20, by omega⟩ := by
  revert off
  decide

/-- The offset of a slot (0x00 for a reserved one, which has no offset of its own). -/
def Slot.offset : Slot → Offset
  | .cmd | .reserved => 0x00
  | .arg => 0x01
  | .status => 0x02
  | .crcHi => 0x04
  | .crcLo => 0x05
  | .code => 0x06
  | .seq => 0x07
  | .addr3 => 0x08
  | .addr2 => 0x09
  | .addr1 => 0x0A
  | .addr0 => 0x0B
  | .txb i => BitVec.ofNat 7 (0x10 + i.val)
  | .rxb i => BitVec.ofNat 7 (0x20 + i.val)
  | .dState => 0x40
  | .dPower => 0x41
  | .dVolt10 => 0x42
  | .dAmbient => 0x43
  | .dCase => 0x44
  | .dSetpoint => 0x45
  | .dMode => 0x46
  | .dPump10 => 0x47
  | .dLqraw => 0x48
  | .dRssiHi => 0x49
  | .dRssiLo => 0x4A

theorem Slot.offset_slotAt : ∀ off : Offset, slotAt off ≠ .reserved → (slotAt off).offset = off := by
  decide

/-- Two offsets with one slot are one offset, unless both are reserved. -/
theorem slotAt_injective {off off' : Offset} (h : slotAt off = slotAt off') (hr : slotAt off ≠ .reserved) : off = off' := by
  rw [← Slot.offset_slotAt off hr, h, Slot.offset_slotAt off' (h ▸ hr)]

/-- The slots a write can change. -/
def Slot.writable : Slot → Bool
  | .arg | .crcHi | .crcLo | .code | .seq | .addr3 | .addr2 | .addr1 | .addr0 | .rxb _ => true
  | .cmd | .status | .txb _ | .dState | .dPower | .dVolt10 | .dAmbient | .dCase | .dSetpoint | .dMode | .dPump10 | .dLqraw
  | .dRssiHi | .dRssiLo | .reserved => false

/-- A slot that is not writable ignores a write. -/
theorem writeSlot_ignored (r : Regs) (v : Byte) {x : Slot} (h : x.writable = false) : writeSlot r v x = r := by
  cases x <;> first | rfl | simp [Slot.writable] at h

/-- No bus write of a register reaches TXB, STATUS or the D_ registers. -/
theorem storeByte_results (r : Regs) (off : Offset) (v : Byte) :
    (storeByte r off v).txb = r.txb ∧ (storeByte r off v).status = r.status ∧ (storeByte r off v).decoded = r.decoded := by
  unfold storeByte
  cases slotAt off <;> exact ⟨rfl, rfl, rfl⟩

/-! ## The step -/

theorem step_idle {s : State} (h : s.pending = []) : step s = .next s := by
  simp [step, advance, h]

theorem step_event {s : State} {e : Event} {rest : List Event} (h : s.pending = e :: rest) :
    step s = deliver e (s.withPending rest) := by
  simp [step, advance, h]

/-- The register effect of each event. -/
def eventRegs (e : Event) (r : Regs) : Regs :=
  match e with
  | .bus (.read _) => r
  | .bus (.write off v) => if off = 0x00 then executeEffect v r else storeByte r off v
  | .reset => Regs.reset
  | .resetDuring _ => Regs.reset

theorem eventRegs_command (v : Byte) (r : Regs) : eventRegs (.bus (.write 0x00 v)) r = executeEffect v r := by
  simp only [eventRegs, if_true]

theorem eventRegs_store {off : Offset} (h : off ≠ 0x00) (v : Byte) (r : Regs) :
    eventRegs (.bus (.write off v)) r = storeByte r off v := by
  simp only [eventRegs, if_neg h]

/-- All that one event can do: the next state it leaves. -/
def eventEffect (e : Event) (s : State) : State :=
  match e with
  | .bus (.read off) => s.pushRead (busRead s.regs off)
  | .resetDuring (.read _) => (s.withRegs Regs.reset).pushFreeRead
  | e => s.withRegs (eventRegs e s.regs)

@[simp] theorem eventEffect_regs (e : Event) (s : State) : (eventEffect e s).regs = eventRegs e s.regs := by
  rcases e with (_ | _) | _ | (_ | _) <;> rfl

@[simp] theorem eventEffect_pending (e : Event) (s : State) : (eventEffect e s).pending = s.pending := by
  rcases e with (_ | _) | _ | (_ | _) <;> rfl

theorem deliver_eq (e : Event) (s : State) : deliver e s = .next (eventEffect e s) := by
  rcases e with (_ | ⟨off, v⟩) | _ | (_ | _)
  · rfl
  · by_cases h : off = 0x00
    · subst h
      exact execute_eq_complete v s
    · simp only [deliver, transact, busWrite, if_neg h, complete, eventEffect, eventRegs_store h]
  · rfl
  · rfl
  · rfl

/-- All that a step can do: nothing when no event waits, and otherwise the effect of the first event. -/
theorem step_eq_next {s t : State} :
    step s = .next t ↔ (s.pending = [] ∧ t = s) ∨ ∃ e rest, s.pending = e :: rest ∧ t = eventEffect e (s.withPending rest) := by
  cases h : s.pending with
  | nil => simp [step_idle h, eq_comm]
  | cons e rest => simp [step_event h, deliver_eq, eq_comm]

end Sys2Proof.Machine
end

