-- ==== Sys2Proof/Laws/PerInstr.lean ====
section
/-! SUPPORT. Facts about every command as syntax, one lemma per constructor. -/

namespace Sys2Proof.Laws

open Sys2Proof

/-- Every command is well-formed, is carried by one byte, and that byte is all the decoder takes (R90). -/
def OneByteForm.Statement (i : Instr) : Prop :=
  i.wellFormed = true ∧ carriesOneCommand (encodeBytes i) = true ∧
    ∀ rest : List Byte, (decodeBytes (encodeBytes i ++ rest)).map Prod.snd = some rest

theorem OneByteForm.nop : OneByteForm.Statement .nop := ⟨rfl, rfl, fun _ => rfl⟩

theorem OneByteForm.crcInit : OneByteForm.Statement .crcInit := ⟨rfl, rfl, fun _ => rfl⟩

theorem OneByteForm.crcUpdate : OneByteForm.Statement .crcUpdate := ⟨rfl, rfl, fun _ => rfl⟩

theorem OneByteForm.encode : OneByteForm.Statement .encode := ⟨rfl, rfl, fun _ => rfl⟩

theorem OneByteForm.decode : OneByteForm.Statement .decode := ⟨rfl, rfl, fun _ => rfl⟩

theorem OneByteForm.clrErr : OneByteForm.Statement .clrErr := ⟨rfl, rfl, fun _ => rfl⟩

theorem OneByteForm.srst : OneByteForm.Statement .srst := ⟨rfl, rfl, fun _ => rfl⟩

end Sys2Proof.Laws
end

