-- ==== Sys2Proof/Laws/Run.lean ====
section
/-! SUPPORT. Runs of the machine, one event at a time. -/

namespace Sys2Proof.Machine

open Sys2Proof

theorem run_zero (s : State) : Host.Core.run Sys2Proof.core 0 s = .next s := rfl

/-- A run of one step more, from a state with an event waiting, delivers that event first. -/
theorem run_event {s : State} {e : Event} {rest : List Event} (h : s.pending = e :: rest) (k : Nat) :
    Host.Core.run Sys2Proof.core (k + 1) s = Host.Core.run Sys2Proof.core k (eventEffect e (s.withPending rest)) := by
  have hs : Sys2Proof.core.step s = .next (eventEffect e (s.withPending rest)) := (step_event h).trans (deliver_eq e _)
  simp only [Host.Core.run, hs]

/-- A run over a list of events delivers each in turn (20_memory.md R73). -/
theorem run_events (es : List Event) (s : State) (rest : List Event) :
    Host.Core.run Sys2Proof.core es.length (s.withPending (es ++ rest)) =
      .next ((es.foldl (fun u e => eventEffect e u) (s.withPending [])).withPending rest) := by
  induction es generalizing s with
  | nil => rfl
  | cons e es ih =>
    have hcomm : eventEffect e (s.withPending (es ++ rest)) = (eventEffect e (s.withPending [])).withPending (es ++ rest) := by
      rcases e with (_ | _) | _ | (_ | _) <;> rfl
    have hself : (eventEffect e (s.withPending [])).withPending [] = eventEffect e (s.withPending []) := by
      rcases e with (_ | _) | _ | (_ | _) <;> rfl
    rw [List.length_cons, run_event (e := e) (rest := es ++ rest) rfl]
    show Host.Core.run Sys2Proof.core es.length (eventEffect e (s.withPending (es ++ rest))) = _
    rw [hcomm, ih, hself, List.foldl_cons]

end Sys2Proof.Machine
end

