-- ==== Sys2Proof/Tests/Slice0.lean ====
section
/-! SUPPORT. Small tests: the smoke tests of the well-formedness checks, the decoding of words written out from the spec's
encodings, single steps against the spec's vectors (95_test_vectors.md), and a witness for each statement with hypotheses. -/

namespace Sys2Proof.Tests

open Sys2Proof Sys2Proof.Machine

/-! ## Helpers -/

/-- The reset state with events waiting. -/
def afterReset (es : List Event) : State := { State.reset with pending := es }

/-- The fixture F1 of 95_test_vectors.md: a StatusFrame that passes its check. -/
def fixtureF1 : Vector Byte 24 :=
  #v[0x17, 0x00, 0x00, 0x00, 0x00, 0x00, 0x03, 0x05, 0x00, 0x7B, 0xFB, 0x00, 0x50, 0x16, 0x32, 0x2D, 0x00, 0x00, 0x00,
     0xFD, 0x3A, 0x00, 0xB5, 0x00]

/-- The reset state with a StatusFrame in RXB and events waiting. -/
def withFrame (f : Vector Byte 24) (es : List Event) : State :=
  { State.reset with regs := { Regs.reset with rxb := f }, pending := es }

/-- The reset state with flags set and events waiting. -/
def withStatus (f : Status) (es : List Event) : State :=
  { State.reset with regs := { Regs.reset with status := f }, pending := es }

/-- The registers of a next state; none for a fault or a refusal. -/
def nextRegs : Host.Outcome State Fault Refusal → Option Regs
  | .next s => some s.regs
  | .fault _ => none
  | .refused _ => none

/-- The bytes read so far in a next state. -/
def nextReads : Host.Outcome State Fault Refusal → Option (List Byte)
  | .next s => some s.reads
  | .fault _ => none
  | .refused _ => none

/-! ## Well-formedness -/

theorem test_no_byte_is_no_command : carriesOneCommand [] = false := by decide

theorem test_two_bytes_are_no_command : carriesOneCommand [0x10, 0x00] = false := by decide

theorem test_every_command_is_well_formed :
    ([.nop, .crcInit, .crcUpdate, .encode, .decode, .clrErr, .srst] : List Instr).all Instr.wellFormed = true := by decide

theorem test_lineOk_refuses_offset : lineOk (.wr 0x80 0x00) = false ∧ lineOk (.rd 0x80 ['a']) = false := by decide

theorem test_lineOk_refuses_byte :
    lineOk (.wr 0x01 256) = false ∧ lineOk (.rawByte 256) = false ∧ lineOk (.crcb 256) = false ∧
    lineOk (.setcmd 256 0) = false ∧ lineOk (.setcmd 0 256) = false := by decide

theorem test_lineOk_refuses_wide :
    lineOk (.setcrc 0x10000) = false ∧ lineOk (.setaddr 0x100000000) = false ∧ lineOk (.crcs [Char.ofNat 233]) = false := by decide

theorem test_lineOk_refuses_frame :
    lineOk (.ldrx (List.replicate 23 0)) = false ∧ lineOk (.ldrx (List.replicate 24 256)) = false := by decide

/-! ## Decoding: the words of R93, bit by bit -/

theorem test_decode_control :
    decodeTableWord 8 0b00000000 = some .nop ∧ decodeTableWord 8 0b00110000 = some .clrErr ∧
    decodeTableWord 8 0b11111111 = some .srst := by decide

theorem test_decode_crc : decodeTableWord 8 0b00000001 = some .crcInit ∧ decodeTableWord 8 0b00000010 = some .crcUpdate := by
  decide

theorem test_decode_frames : decodeTableWord 8 0b00010000 = some .encode ∧ decodeTableWord 8 0b00100000 = some .decode := by
  decide

/-- V-CTL-7: the edges of the unassigned ranges. -/
theorem test_decode_illegal :
    ([0x03, 0x0F, 0x11, 0x1F, 0x21, 0x2F, 0x31, 0xFE] : List Byte).all (fun v => decodeCommand v == .illegal) = true := by decide

theorem test_decode_bytes : decodeBytes [0x20, 0xAA] = some (.assigned .decode, [0xAA]) ∧ decodeBytes [] = none := by decide

theorem test_fetch_word_runs (s : State) : step (s.withFetchWord 8 0x10) = exec .encode s := rfl

/-! ## The CRC function -/

/-- S2, R115 and V-CRC-7. -/
theorem test_crc_values :
    crc16 [0x31, 0x32, 0x33, 0x34, 0x35, 0x36, 0x37, 0x38, 0x39] = 0x4B37 ∧ crc16 (List.replicate 19 0x00) = 0x2424 ∧
    crcTable 0x80 = 0xA001 := by decide +kernel

/-- The single-update table of 95_test_vectors.md, and the same by the table form. -/
theorem test_crc_step :
    crcStep 0x1234 0xCD = 0x42D2 ∧ crcStep 0xFFFF 0x31 = 0x947E ∧ crcStepByTable 0x1234 0xCD = 0x42D2 := by decide +kernel

/-! ## Commands -/

/-- V-CTL-1. -/
theorem test_nop : nextRegs (exec .nop (withFrame fixtureF1 [])) = some (withFrame fixtureF1 []).regs := by decide

/-- V-CRC-10: from CRC = 0x1234. -/
theorem test_crc_init :
    (nextRegs (exec .crcInit { State.reset with regs := { Regs.reset with crc := 0x1234 } })).map Regs.crc = some 0xFFFF := by decide

/-- R114's example. -/
theorem test_crc_update :
    (nextRegs (exec .crcUpdate { State.reset with regs := { Regs.reset with arg := 0x31 } })).map (fun r => (r.crc, r.arg)) =
      some (0x947E, 0x31) := by decide +kernel

/-- V-ENC-2: 09 A1 12 34 56 78 00 52 EF 00. -/
theorem test_encode :
    (nextRegs (exec .encode { State.reset with regs := { Regs.reset with code := 0xA1, addr := 0x12345678 } })).map
      (fun r => (r.txb, r.crc, r.status.txvalid)) =
    some (#v[0x09, 0xA1, 0x12, 0x34, 0x56, 0x78, 0x00, 0x52, 0xEF, 0x00], 0x52EF, true) := by decide +kernel

/-- V-ENC-6: an operand set with no symmetric byte. -/
theorem test_encode_operands :
    (nextRegs (exec .encode { State.reset with regs :=
        { Regs.reset with code := 0x2B, addr := 0xDEADBEEF, seq := 0x7F, status := { Status.reset with illcmd := true } } })).map
      (fun r => (r.txb, statusByte r.status)) =
    some (#v[0x09, 0x2B, 0xDE, 0xAD, 0xBE, 0xEF, 0x7F, 0x50, 0x61, 0x00], 0x18) := by decide +kernel

/-- V-DEC-1. -/
theorem test_decode_success :
    (nextRegs (exec .decode (withFrame fixtureF1 []))).map (fun r => (r.crc, statusByte r.status, r.decoded)) =
    some (0xFD3A, 0x05, { state := 0x03, power := 0x05, volt10 := 0x7B, ambient := 0xFB, caseTemp := 0x50, setpoint := 0x16,
                          mode := 0x32, pump10 := 0x2D, lqraw := 0xB5, rssi := 0xFF21 }) := by decide +kernel

/-- V-DEC-7: the received CRC with its bytes swapped fails. -/
theorem test_decode_failure :
    (nextRegs (exec .decode (withFrame ((fixtureF1.set 19 0x3A).set 20 0xFD) []))).map
      (fun r => (r.crc, statusByte r.status, r.decoded)) = some (0xFD3A, 0x02, Decoded.zero) := by decide +kernel

/-- V-RSSI-4, V-RSSI-5 and V-RSSI-9. -/
theorem test_rssi : rssiOf 0x7F = 0xFFEB ∧ rssiOf 0x80 = 0xFEEC ∧ rssiOf 0xFF = 0xFF6B := by decide

/-- V-CTL-3: STATUS 0x1D becomes 0x0D. -/
theorem test_clr_err :
    (nextRegs (exec .clrErr (withStatus { dvalid := true, crcerr := false, dauto := true, txvalid := true, illcmd := true } []))).map
      (fun r => statusByte r.status) = some 0x0D := by decide

/-- V-CTL-6. -/
theorem test_srst : nextRegs (exec .srst (withFrame fixtureF1 [])) = some Regs.reset := by decide

/-- V-CTL-4: `.byte 0x03`. -/
theorem test_illegal :
    nextRegs (step (afterReset [commandEvent 0x03])) = some { Regs.reset with status := { Status.reset with illcmd := true } } := by
  decide

/-! ## The bus -/

/-- V-BUS-1 and V-BUS-6. -/
theorem test_bus_read_reset :
    ([0x00, 0x03, 0x0C, 0x1A, 0x38, 0x4B, 0x7F] : List Offset).all (fun off => busRead Regs.reset off == 0x00) = true ∧
    busRead Regs.reset 0x04 = 0xFF ∧ busRead Regs.reset 0x05 = 0xFF := by decide

/-- V-BUS-2. -/
theorem test_bus_write_ignored :
    ([(0x10, 0x55), (0x02, 0xFF), (0x40, 0x01), (0x49, 0x12), (0x7F, 0x01)] : List (Offset × Byte)).all
      (fun w => storeByte Regs.reset w.1 w.2 == Regs.reset) = true := by decide

/-- V-BUS-3 and V-CRC-14: each byte of a multi-byte register is written alone. -/
theorem test_bus_write_bytes :
    (storeByte (storeByte (storeByte (storeByte Regs.reset 0x08 0x12) 0x09 0x34) 0x0A 0x56) 0x0B 0x78).addr = 0x12345678 ∧
    (storeByte Regs.reset 0x05 0x00).crc = 0xFF00 ∧ (storeByte (storeByte Regs.reset 0x05 0x00) 0x04 0x12).crc = 0x1200 := by
  decide

/-- V-BUS-5, as two steps would do it. -/
theorem test_bus_read_back : busRead (storeByte Regs.reset 0x20 0xAA) 0x20 = 0xAA ∧ busRead (storeByte Regs.reset 0x37 0xAA) 0x37 = 0xAA := by
  decide

theorem test_read_step : nextReads (step (afterReset [.bus (.read 0x04)])) = some [0xFF] := by decide

theorem test_idle_step : step State.reset = .next State.reset := rfl

/-- The ports of R78: reset over a transaction, a completed write, a wait state. -/
theorem test_port_events :
    portEvent { rst := true, busSel := true, busWe := false, busOff := 0x02, busWdata := 0, busReady := false } =
      some (.resetDuring (.read 0x02)) ∧
    portEvent { rst := false, busSel := true, busWe := true, busOff := 0x00, busWdata := 0x10, busReady := true } =
      some (commandEvent 0x10) ∧
    portEvent { rst := false, busSel := true, busWe := true, busOff := 0x00, busWdata := 0x10, busReady := false } = none := by
  decide

/-! ## Physical values -/

/-- The physical units of V-DEC-1: 12.3 V, -5 °C, 80 °C, 22 °C, 4.5 Hz, -111.5 dBm. -/
theorem test_physical_values :
    voltageOf (decodedFields fixtureF1) = 123 / 10 ∧ pumpFrequencyOf (decodedFields fixtureF1) = 45 / 10 ∧
    signalStrengthOf (decodedFields fixtureF1) = -223 / 2 := by
  refine ⟨?_, ?_, ?_⟩ <;> simp [voltageOf, pumpFrequencyOf, signalStrengthOf, decodedFields, fixtureF1, u8, s16, rssiOf,
    Config.rssiOffsetHalfDbm]

theorem test_signed_bytes : s8 0xFB = -5 ∧ s8 0x80 = -128 ∧ s8 0x7F = 127 ∧ u8 0xFF = 255 := by decide

/-! ## Host programs -/

/-- The forms of P1, P3 and P4, and R97's numbers, names, comments and character literals. -/
theorem test_parse_lines :
    parseLine "wr RXB10, 0xFA   ; corruption".toList = .ok (some (.wr 0x2A 0xFA)) ∧
    parseLine "rd D_AMBIENT -> ta2".toList = .ok (some (.rd 0x43 "ta2".toList)) ∧
    parseLine "crcs \"12;\"".toList = .ok (some (.crcs "12;".toList)) ∧
    parseLine "wr 1 'A'".toList = .ok (some (.wr 0x01 0x41)) ∧
    parseLine ".byte 0x03".toList = .ok (some (.rawByte 3)) := by decide

theorem test_parse_more_lines :
    parseLine "CRC_UPDATE".toList = .ok (some (.command .crcUpdate)) ∧
    parseLine "setcmd 0xA1, 0x01".toList = .ok (some (.setcmd 0xA1 1)) ∧
    parseLine "rdrssi -> r".toList = .ok (some (.rdrssi ['r'])) ∧ parseLine "  ; nothing".toList = .ok none := by decide

theorem test_parse_rejects :
    parseLine "wr ARG, 256".toList = .error .outOfRange ∧ parseLine "wr ARG".toList = .error .unknownLine ∧
    parseLine "JUMP".toList = .error .unknownLine ∧ parseLine "crcs \"12".toList = .error .openLiteral := by decide

theorem test_parse_program :
    parseProgram "setcrc 0x1234\nCRC_INIT".toList = .ok [.setcrc 0x1234, .command .crcInit] := by decide

/-- R98's expansions with more than one part. -/
theorem test_expand :
    expandLine (.setaddr 0x12345678) = [.write 0x08 0x12, .write 0x09 0x34, .write 0x0A 0x56, .write 0x0B 0x78] ∧
    expandLine (.crcs ['1', '2']) = [.write 0x01 0x31, .write 0x00 0x02, .write 0x01 0x32, .write 0x00 0x02] ∧
    expandLine (.setcrc 0xABCD) = [.write 0x04 0xAB, .write 0x05 0xCD] ∧
    (expandLine (.ldrx (List.replicate 24 7))).getLast? = some (.write 0x37 7) ∧
    (expandLine (.rdtx ['f'])).getLast? = some (.read 0x19) := by decide

/-- P3's `rdrssi -> r` of FF 21. -/
theorem test_bindings :
    bindings [.wr 1 0, .rd 0x43 ['a'], .rdrssi ['r']] [0xFB, 0xFF, 0x21] = [(['a'], .byte 0xFB), (['r'], .signed (-223))] := by
  decide

/-! ## Witnesses: for each statement with hypotheses, a state and operands that meet them -/

theorem witness_StepRunsTheDecodedInstruction :
    decodeCommand 0x10 = .assigned .encode ∧ Instr.encode.wellFormed = true := by decide

theorem witness_UnassignedBytesSetIllcmdOnly :
    decodeCommand 0x03 = .illegal ∧ decodeCommand 0x11 = .illegal ∧ decodeCommand 0x2F = .illegal ∧
    decodeCommand 0xFE = .illegal := by decide

/-- The frame F1 passes: the hypothesis of the statements about a DECODE that succeeds (DecodedFieldsHaveTheirPhysicalValues,
RssiIsExactInHalfDbm, AutoModeIsExactlyTheAutoByte, BytesOutsideTheCrcAreNotChecked, SingleByteChangesAreDetected). -/
theorem witness_frame_passes : crc16 (fixtureF1.toList.take 19) = fixtureF1[19] ++ fixtureF1[20] ∧ fixtureF1[14] = 0x32 := by
  decide +kernel

/-- The zero frame of reset fails (FailedDecodeLeavesNoFieldToRead, ChecksumFailureIsReportedAndHeld), at the edge offsets. -/
theorem witness_frame_fails :
    crc16 (Regs.reset.rxb.toList.take 19) ≠ Regs.reset.rxb[19] ++ Regs.reset.rxb[20] ∧
    (0x40 : Offset) ≤ 0x40 ∧ (0x4A : Offset) ≤ 0x4A := by decide +kernel

/-- SingleByteChangesAreDetected: both ends of the covered range, and a change of the received CRC. -/
theorem witness_SingleByteChangesAreDetected :
    (0 : Fin 24).val ≤ 18 ∧ (18 : Fin 24).val ≤ 18 ∧ (0x01 : Byte) ≠ 0x00 ∧
    ¬ ((0x3A : Byte) = fixtureF1[19] ∧ (0xFD : Byte) = fixtureF1[20]) := by decide

/-- BusReadReturnsTheMappedByte, BusWriteReplacesTheMappedByte and ReadOnlyAndReservedOffsetsIgnoreWrites: the edges of each
range, and that the read-only and the reserved offsets are apart. -/
theorem witness_offset_ranges :
    ([0x03, 0x0C, 0x0F, 0x1A, 0x1F, 0x38, 0x3F, 0x4B, 0x7F] : List Offset).all (fun off => slotAt off == .reserved) = true ∧
    ([0x02, 0x10, 0x19, 0x40, 0x4A] : List Offset).all (fun off => slotAt off != .reserved) = true := by decide

/-- WrittenByteReadsBackAndNoOtherChanges and WritesAreIdempotentExceptAtCmd: the edges of the writable ranges. -/
theorem witness_WrittenByteReadsBack :
    busRead (storeByte Regs.reset 0x04 0x12) 0x04 = 0x12 ∧ busRead (storeByte Regs.reset 0x0B 0x12) 0x0B = 0x12 ∧
    busRead (storeByte Regs.reset 0x20 0x12) 0x20 = 0x12 ∧ (0x21 : Offset) ≠ 0x20 ∧ (0x01 : Offset) ≠ 0x00 := by decide

/-- CommandsReadAndWriteTheirRegistersOnly: two different states that agree on what each command reads. -/
theorem witness_CommandsReadAndWriteTheirRegistersOnly :
    (withFrame fixtureF1 []).regs.crc = Regs.reset.crc ∧ (withFrame fixtureF1 []).regs.arg = Regs.reset.arg ∧
    (withFrame fixtureF1 []).regs.code = Regs.reset.code ∧ (withFrame fixtureF1 []).regs.seq = Regs.reset.seq ∧
    (withFrame fixtureF1 []).regs.addr = Regs.reset.addr ∧ (withFrame fixtureF1 []).regs ≠ Regs.reset ∧
    (afterReset []).regs.rxb = (withStatus { Status.reset with txvalid := true } []).regs.rxb ∧
    (afterReset []) ≠ withStatus { Status.reset with txvalid := true } [] ∧ decodeCommand 0x31 = .illegal := by decide

/-- OperandsChangeOnlyByTheirOwnWriteOrReset: a step that changes each operand register. -/
theorem witness_OperandsChangeOnlyByTheirOwnWriteOrReset :
    (∃ t, step (afterReset [.bus (.write 0x01 0x31)]) = .next t ∧ t.regs.arg ≠ Regs.reset.arg) ∧
    (∃ t, step (afterReset [.bus (.write 0x06 0xA1)]) = .next t ∧ t.regs.code ≠ Regs.reset.code) ∧
    (∃ t, step (afterReset [.bus (.write 0x07 0x01)]) = .next t ∧ t.regs.seq ≠ Regs.reset.seq) ∧
    (∃ t, step (afterReset [.bus (.write 0x08 0x12)]) = .next t ∧ t.regs.addr ≠ Regs.reset.addr) ∧
    (∃ t, step (afterReset [.bus (.write 0x37 0x12)]) = .next t ∧ t.regs.rxb ≠ Regs.reset.rxb) :=
  ⟨⟨_, rfl, by decide⟩, ⟨_, rfl, by decide⟩, ⟨_, rfl, by decide⟩, ⟨_, rfl, by decide⟩, ⟨_, rfl, by decide⟩⟩

/-- ResultBuffersChangeOnlyByTheirCommandOrReset: a step that changes each. -/
theorem witness_ResultBuffersChangeOnlyByTheirCommandOrReset :
    (∃ t, step (afterReset [commandEvent 0x10]) = .next t ∧ t.regs.txb ≠ Regs.reset.txb) ∧
    (∃ t, step (withFrame fixtureF1 [commandEvent 0x20]) = .next t ∧ t.regs.decoded ≠ Regs.reset.decoded) :=
  ⟨⟨_, rfl, by decide +kernel⟩, ⟨_, rfl, by decide +kernel⟩⟩

/-- OperandWritesLeaveTheSnapshots: writes at the edges of both ranges. -/
theorem witness_OperandWritesLeaveTheSnapshots :
    ∀ w ∈ ([(0x06, 0xA1), (0x0B, 0x78), (0x20, 0x17), (0x37, 0x01)] : List (Offset × Byte)),
      (0x06 ≤ w.1 ∧ w.1 ≤ 0x0B) ∨ (0x20 ≤ w.1 ∧ w.1 ≤ 0x37) := by simp

theorem witness_SavedAccumulatorIsRestored : Instr.decode = .encode ∨ Instr.decode = .decode := by decide

/-- FlagsChangeOnlyAsTheTableSays, ChecksumFailureIsReportedAndHeld and AtMostOneErrorEventPerStep: steps that set and clear
CRCERR, DVALID and ILLCMD. -/
theorem witness_flag_changes :
    (∃ t, step (withFrame fixtureF1 [commandEvent 0x20]) = .next t ∧ t.regs.status.dvalid = true ∧ t.regs.status.dauto = true) ∧
    (∃ t, step (afterReset [commandEvent 0x20]) = .next t ∧ t.regs.status.crcerr = true) ∧
    (∃ t, step (withStatus { Status.reset with crcerr := true, illcmd := true } [commandEvent 0x30]) = .next t ∧
      t.regs.status.crcerr = false ∧ t.regs.status.illcmd = false) ∧
    (∃ t, step (withStatus { Status.reset with dvalid := true, dauto := true, txvalid := true } [.reset]) = .next t ∧
      t.regs.status = Status.reset) :=
  ⟨⟨_, rfl, by decide +kernel⟩, ⟨_, rfl, by decide +kernel⟩, ⟨_, rfl, by decide⟩, ⟨_, rfl, by decide⟩⟩

/-- IllegalCommandFlagIsSticky: a state with the flag set, and events that do not clear it. -/
theorem witness_IllegalCommandFlagIsSticky :
    (withStatus { Status.reset with illcmd := true } []).regs.status.illcmd = true ∧
    ∀ e ∈ ([commandEvent 0x10, commandEvent 0x03, .bus (.write 0x02 0x00), .bus (.read 0x02)] : List Event),
      e ≠ .bus (.write 0x00 0x30) ∧ e ≠ .bus (.write 0x00 0xFF) ∧ e ≠ .reset ∧ ∀ x, e ≠ .resetDuring x := by
  simp [withStatus, commandEvent]

/-- EveryStepCompletes and IdleStepChangesNothing: states that meet each hypothesis. -/
theorem witness_EveryStepCompletes :
    (afterReset [.bus (.read 0x04)]).pending = [.bus (.read 0x04)] ∧
    (afterReset [.bus (.write 0x01 0x02)]).pending = [.bus (.write 0x01 0x02)] ∧ State.reset.pending = [] := by decide

/-- FlagPairsStayLegal and DecodedRegistersStayConsistent: a legal state and a step from it that sets the flags. -/
theorem witness_DecodedRegistersStayConsistent :
    ∃ t, (withFrame fixtureF1 [commandEvent 0x20]).regs.flagsLegal ∧ (withFrame fixtureF1 [commandEvent 0x20]).regs.decodedLegal ∧
      step (withFrame fixtureF1 [commandEvent 0x20]) = .next t ∧ t.regs.status.dvalid = true :=
  ⟨_, by decide, by decide, rfl, by decide +kernel⟩

/-- TransmitBufferStaysAValidFrame: a legal state and a step from it that builds a frame. -/
theorem witness_TransmitBufferStaysAValidFrame :
    ∃ t, (afterReset [commandEvent 0x10]).regs.txbLegal ∧ step (afterReset [commandEvent 0x10]) = .next t ∧
      t.regs.status.txvalid = true :=
  ⟨_, by decide, rfl, by decide⟩

end Sys2Proof.Tests
end

/-! SUPPORT. What an event does to the registers, sorted by the command whose effect it has, and the statements of 10_state.md:
the three invariants, who changes which register, and the rows of the STATUS table. -/

namespace Sys2Proof.Machine

open Sys2Proof

/-! ## The command whose register effect an event has -/

theorem decodeCommand_encode (i : Instr) : decodeCommand (encode i) = .assigned i := by
  cases i <;> rfl

/-- An assigned byte is the opcode of its command (30_encoding.md R93): along the decoder's chain of tests. -/
theorem eq_encode_of_decodeCommand {v : Byte} {i : Instr} (h : decodeCommand v = .assigned i) : v = encode i := by
  unfold decodeCommand at h
  repeat' split at h
  all_goals cases h
  all_goals assumption

/-- What an outcome of the decoder does to the registers. -/
def outcomeEffect : Command → Regs → Regs
  | .assigned i, r => commandEffect i r
  | .illegal, r => r.setStatus (flagIllegalCommand r.status)

theorem executeEffect_eq_outcomeEffect (v : Byte) (r : Regs) : executeEffect v r = outcomeEffect (decodeCommand v) r := by
  cases h : decodeCommand v with
  | assigned i => exact executeEffect_assigned h r
  | illegal => exact executeEffect_illegal h r

/-- The command whose register effect an event has: hardware reset has that of SRST (43_control.md R182); a read and a write
to any offset but CMD's have that of none. -/
def Event.command? : Event → Option Command
  | .bus (.read _) => none
  | .bus (.write off v) => if off = 0x00 then some (decodeCommand v) else none
  | .reset => some (.assigned .srst)
  | .resetDuring _ => some (.assigned .srst)

theorem Event.command?_store {off : Offset} (h : off ≠ 0x00) (v : Byte) : Event.command? (.bus (.write off v)) = none :=
  if_neg h

/-- An event runs a command by a write to CMD, and SRST's also by hardware reset. -/
theorem Event.command?_eq_some_iff {e : Event} {c : Command} :
    e.command? = some c ↔
      (∃ v, e = .bus (.write 0x00 v) ∧ decodeCommand v = c) ∨
      (c = .assigned .srst ∧ (e = .reset ∨ ∃ x, e = .resetDuring x)) := by
  constructor
  · intro h
    rcases e with (off | ⟨off, v⟩) | _ | x
    · cases h
    · by_cases hoff : off = 0x00
      · subst hoff
        exact .inl ⟨v, rfl, Option.some.inj h⟩
      · rw [Event.command?_store hoff] at h
        cases h
    · exact .inr ⟨(Option.some.inj h).symm, .inl rfl⟩
    · exact .inr ⟨(Option.some.inj h).symm, .inr ⟨x, rfl⟩⟩
  · rintro (⟨v, rfl, rfl⟩ | ⟨rfl, rfl | ⟨x, rfl⟩⟩) <;> rfl

theorem eventRegs_of_command {e : Event} {c : Command} (h : e.command? = some c) (r : Regs) :
    eventRegs e r = outcomeEffect c r := by
  rcases Event.command?_eq_some_iff.mp h with ⟨v, rfl, rfl⟩ | ⟨rfl, rfl | ⟨x, rfl⟩⟩
  · rw [eventRegs_command, executeEffect_eq_outcomeEffect]
  · rfl
  · rfl

/-- An event that runs no command leaves the registers alone, or is a write to an offset of its own. -/
theorem eventRegs_of_no_command {e : Event} (h : e.command? = none) (r : Regs) :
    eventRegs e r = r ∨ ∃ off v, e = .bus (.write off v) ∧ eventRegs e r = storeByte r off v := by
  rcases e with (off | ⟨off, v⟩) | _ | _
  · exact .inl rfl
  · by_cases hoff : off = 0x00
    · subst hoff
      cases h
    · exact .inr ⟨off, v, rfl, eventRegs_store hoff v r⟩
  · cases h
  · cases h

/-- The events of one command: its opcode written to CMD. SRST alone has others, which `Event.isReset_iff` lists. -/
theorem Event.eq_commandEvent_iff {e : Event} {i : Instr} (hi : i ≠ .srst) :
    e = .bus (.write 0x00 (encode i)) ↔ e.command? = some (.assigned i) := by
  constructor
  · rintro rfl
    exact Event.command?_eq_some_iff.mpr (.inl ⟨_, rfl, decodeCommand_encode i⟩)
  · intro h
    rcases Event.command?_eq_some_iff.mp h with ⟨v, rfl, hv⟩ | ⟨hsrst, _⟩
    · rw [eq_encode_of_decodeCommand hv]
    · exact absurd (Command.assigned.inj hsrst) hi

theorem Event.isEncode_iff (e : Event) : e = .bus (.write 0x00 0x10) ↔ e.command? = some (.assigned .encode) :=
  Event.eq_commandEvent_iff (i := .encode) (by decide)

theorem Event.isDecode_iff (e : Event) : e = .bus (.write 0x00 0x20) ↔ e.command? = some (.assigned .decode) :=
  Event.eq_commandEvent_iff (i := .decode) (by decide)

theorem Event.isClrErr_iff (e : Event) : e = .bus (.write 0x00 0x30) ↔ e.command? = some (.assigned .clrErr) :=
  Event.eq_commandEvent_iff (i := .clrErr) (by decide)

theorem Event.isReset_iff (e : Event) :
    (e = .reset ∨ (∃ x, e = .resetDuring x) ∨ e = .bus (.write 0x00 0xFF)) ↔ e.command? = some (.assigned .srst) := by
  constructor
  · rintro (rfl | ⟨x, rfl⟩ | rfl) <;> rfl
  · intro h
    rcases Event.command?_eq_some_iff.mp h with ⟨v, rfl, hv⟩ | ⟨_, hreset | hduring⟩
    · have hbyte : v = 0xFF := eq_encode_of_decodeCommand hv
      exact .inr (.inr (by rw [hbyte]))
    · exact .inl hreset
    · exact .inr (.inl hduring)

theorem Event.isIllegal_iff (e : Event) :
    (∃ v, e = .bus (.write 0x00 v) ∧ decodeCommand v = .illegal) ↔ e.command? = some .illegal := by
  simp [Event.command?_eq_some_iff]

/-! ## The registers after a step -/

theorem step_regs {s t : State} {e : Event} {rest : List Event} (hp : s.pending = e :: rest) (h : step s = .next t) :
    t.regs = eventRegs e s.regs := by
  rw [step_event hp, deliver_eq] at h
  cases h
  rw [eventEffect_regs, State.withPending_regs]

/-- A property of the registers that every stored byte and every command keeps is kept by every step. -/
theorem step_keeps {P : Regs → Prop} (hstore : ∀ r off v, P r → P (storeByte r off v))
    (heffect : ∀ (c : Command) r, P r → P (outcomeEffect c r)) {s t : State} (hs : P s.regs) (h : step s = .next t) : P t.regs := by
  rcases step_eq_next.mp h with ⟨_, rfl⟩ | ⟨e, rest, hp, _⟩
  · exact hs
  · rw [step_regs hp h]
    cases hc : e.command? with
    | some c =>
      rw [eventRegs_of_command hc]
      exact heffect c _ hs
    | none =>
      rcases eventRegs_of_no_command hc s.regs with hr | ⟨off, v, _, hr⟩ <;> rw [hr]
      · exact hs
      · exact hstore _ off v hs

@[simp] theorem storeByte_txb (r : Regs) (off : Offset) (v : Byte) : (storeByte r off v).txb = r.txb :=
  (storeByte_results r off v).1

@[simp] theorem storeByte_status (r : Regs) (off : Offset) (v : Byte) : (storeByte r off v).status = r.status :=
  (storeByte_results r off v).2.1

@[simp] theorem storeByte_decoded (r : Regs) (off : Offset) (v : Byte) : (storeByte r off v).decoded = r.decoded :=
  (storeByte_results r off v).2.2

/-! ## DECODE's two outcomes -/

theorem crcOk_iff (rxb : Vector Byte 24) : crcOk rxb = true ↔ crc16 (rxb.toList.take 19) = rxb[19] ++ rxb[20] :=
  beq_iff_eq

theorem autoModeOf_iff (rxb : Vector Byte 24) : autoModeOf rxb = true ↔ rxb[14] = 0x32 :=
  beq_iff_eq

/-- DECODE writes CRC, the D_ registers and STATUS; the check chooses between two values of the last two (R152). -/
theorem outcomeEffect_decode (r : Regs) :
    outcomeEffect (.assigned .decode) r =
      ((r.setDecoded (if crcOk r.rxb then decodedFields r.rxb else Decoded.zero)).setStatus
        (if crcOk r.rxb then flagDecoded (autoModeOf r.rxb) r.status else flagChecksumFailure r.status)).setCrc
          (statusCrc r.rxb) := by
  by_cases hok : crcOk r.rxb = true <;> simp [outcomeEffect, commandEffect, commitDecoded, discardDecoded, hok]

/-! ## The flag pairs (10_state.md R29) -/

theorem flagsLegal_reset : Regs.reset.flagsLegal := by decide

theorem flagsLegal_outcomeEffect (c : Command) (r : Regs) (h : r.flagsLegal) : (outcomeEffect c r).flagsLegal := by
  cases c with
  | illegal => exact h
  | assigned i =>
    cases i with
    | nop | crcInit | crcUpdate | encode => exact h
    | decode =>
      rw [outcomeEffect_decode]
      by_cases hok : crcOk r.rxb = true <;> simp [Regs.flagsLegal, hok]
    | clrErr => exact ⟨fun hboth => Bool.false_ne_true hboth.2, h.2⟩
    | srst => exact flagsLegal_reset

/-- Settles O49: the flags change by commands alone, and each command's update keeps both pairs. -/
theorem flagPairsStayLegal : Obligations.FlagPairsStayLegal := fun _ _ hs h =>
  step_keeps (P := Regs.flagsLegal) (fun r off v hr => by simpa [Regs.flagsLegal] using hr) flagsLegal_outcomeEffect hs h

/-! ## TXB and TXVALID (10_state.md R26, R28; 41_encode.md R133) -/

theorem txbLegal_reset : Regs.reset.txbLegal := by decide

/-- The header that ENCODE's CRC covers is the first seven bytes of the frame it builds. -/
theorem commandFrame_take (r : Regs) : (commandFrame r).toList.take 7 = commandHeader r := rfl

theorem commandFrame_crc (r : Regs) : crc16 ((commandFrame r).toList.take 7) = (commandFrame r)[7] ++ (commandFrame r)[8] :=
  calc crc16 ((commandFrame r).toList.take 7) = commandCrc r := by rw [commandFrame_take, commandCrc]
    _ = joinBytes (highByte (commandCrc r)) (lowByte (commandCrc r)) := (joinBytes_high_low _).symm

theorem txbLegal_outcomeEffect (c : Command) (r : Regs) (h : r.txbLegal) : (outcomeEffect c r).txbLegal := by
  cases c with
  | illegal => exact h
  | assigned i =>
    cases i with
    | nop | crcInit | crcUpdate | clrErr => exact h
    | encode => exact ⟨rfl, rfl, commandFrame_crc r⟩
    | decode =>
      rw [outcomeEffect_decode]
      by_cases hok : crcOk r.rxb = true <;> simpa [Regs.txbLegal, hok] using h
    | srst => exact txbLegal_reset

/-- Settles O50: only ENCODE and reset write TXB, each together with TXVALID. -/
theorem transmitBufferStaysAValidFrame : Obligations.TransmitBufferStaysAValidFrame := fun _ _ hs h =>
  step_keeps (P := Regs.txbLegal) (fun r off v hr => by simpa [Regs.txbLegal] using hr) txbLegal_outcomeEffect hs h

/-! ## The D_ registers and DVALID (10_state.md R39; 42_decode.md R153, R158, R159) -/

theorem decodedLegal_reset : Regs.reset.decodedLegal := by decide

theorem decodedLegal_outcomeEffect (c : Command) (r : Regs) (h : r.decodedLegal) : (outcomeEffect c r).decodedLegal := by
  cases c with
  | illegal => exact h
  | assigned i =>
    cases i with
    | nop | crcInit | crcUpdate | encode | clrErr => exact h
    | decode =>
      rw [outcomeEffect_decode]
      by_cases hok : crcOk r.rxb = true <;> simp only [hok, if_true, if_false, Bool.false_eq_true]
      · exact ⟨rfl, autoModeOf_iff r.rxb⟩
      · exact (rfl : Decoded.zero = Decoded.zero)
    | srst => exact decodedLegal_reset

/-- Settles O51: only DECODE and reset write the D_ registers, each together with DVALID and DAUTO. -/
theorem decodedRegistersStayConsistent : Obligations.DecodedRegistersStayConsistent := fun _ _ hs h =>
  step_keeps (P := Regs.decodedLegal) (fun r off v hr => by simpa [Regs.decodedLegal] using hr) decodedLegal_outcomeEffect hs h

/-- Settles O52, by evaluating each invariant on the reset registers. -/
theorem resetStateIsLegal : Obligations.ResetStateIsLegal :=
  ⟨flagsLegal_reset, txbLegal_reset, decodedLegal_reset⟩

/-! ## The operand registers (10_state.md R22 to R25, R27) -/

/-- The operand registers of two register files agree. -/
structure SameOperands (r' r : Regs) : Prop where
  arg : r'.arg = r.arg
  code : r'.code = r.code
  seq : r'.seq = r.seq
  addr : r'.addr = r.addr
  rxb : r'.rxb = r.rxb

/-- "Commands read it and never write it": every command but SRST leaves every operand as it is. -/
theorem outcomeEffect_sameOperands {c : Command} (h : c ≠ .assigned .srst) (r : Regs) : SameOperands (outcomeEffect c r) r := by
  cases c with
  | illegal => exact ⟨rfl, rfl, rfl, rfl, rfl⟩
  | assigned i =>
    cases i with
    | nop | crcInit | crcUpdate | encode | clrErr => exact ⟨rfl, rfl, rfl, rfl, rfl⟩
    | decode =>
      rw [outcomeEffect_decode]
      exact ⟨rfl, rfl, rfl, rfl, rfl⟩
    | srst => exact absurd rfl h

/-- All that an event can do to the operands: reset them, store one byte, or leave them. -/
theorem eventRegs_operands (e : Event) (r : Regs) :
    e.command? = some (.assigned .srst) ∨
    (∃ off v, e = .bus (.write off v) ∧ eventRegs e r = storeByte r off v) ∨ SameOperands (eventRegs e r) r := by
  cases hc : e.command? with
  | none =>
    rcases eventRegs_of_no_command hc r with hr | hstore
    · exact .inr (.inr (hr.symm ▸ ⟨rfl, rfl, rfl, rfl, rfl⟩))
    · exact .inr (.inl hstore)
  | some c =>
    by_cases hsrst : c = .assigned .srst
    · exact .inl (congrArg some hsrst)
    · exact .inr (.inr (eventRegs_of_command hc r ▸ outcomeEffect_sameOperands hsrst r))

theorem writeSlot_arg (r : Regs) (v : Byte) (x : Slot) : (writeSlot r v x).arg = if x = .arg then v else r.arg := by
  cases x <;> rfl

theorem writeSlot_code (r : Regs) (v : Byte) (x : Slot) : (writeSlot r v x).code = if x = .code then v else r.code := by
  cases x <;> rfl

theorem writeSlot_seq (r : Regs) (v : Byte) (x : Slot) : (writeSlot r v x).seq = if x = .seq then v else r.seq := by
  cases x <;> rfl

theorem writeSlot_addr_ne {r : Regs} {v : Byte} {x : Slot} (h : (writeSlot r v x).addr ≠ r.addr) :
    x = .addr3 ∨ x = .addr2 ∨ x = .addr1 ∨ x = .addr0 := by
  cases x with
  | addr3 | addr2 | addr1 | addr0 => simp
  | _ => exact absurd rfl h

theorem writeSlot_rxb_ne {r : Regs} {v : Byte} {x : Slot} (h : (writeSlot r v x).rxb ≠ r.rxb) : ∃ i, x = .rxb i := by
  cases x with
  | rxb i => exact ⟨i, rfl⟩
  | _ => exact absurd rfl h

/-- A slot that is not reserved stands at its own offset alone. -/
theorem eq_offset_of_slotAt {off : Offset} {x : Slot} (h : slotAt off = x) (hx : x ≠ .reserved) : off = x.offset := by
  subst h
  exact (Slot.offset_slotAt off hx).symm

theorem storeByte_arg (r : Regs) (off : Offset) (v : Byte) :
    (storeByte r off v).arg = if off = 0x01 then v else r.arg := by
  rw [storeByte, writeSlot_arg]
  exact if_congr ⟨fun h => eq_offset_of_slotAt h (by decide), fun h => h ▸ rfl⟩ rfl rfl

theorem storeByte_code (r : Regs) (off : Offset) (v : Byte) :
    (storeByte r off v).code = if off = 0x06 then v else r.code := by
  rw [storeByte, writeSlot_code]
  exact if_congr ⟨fun h => eq_offset_of_slotAt h (by decide), fun h => h ▸ rfl⟩ rfl rfl

theorem storeByte_seq (r : Regs) (off : Offset) (v : Byte) :
    (storeByte r off v).seq = if off = 0x07 then v else r.seq := by
  rw [storeByte, writeSlot_seq]
  exact if_congr ⟨fun h => eq_offset_of_slotAt h (by decide), fun h => h ▸ rfl⟩ rfl rfl

theorem storeByte_addr_ne {r : Regs} {off : Offset} {v : Byte} (h : (storeByte r off v).addr ≠ r.addr) :
    0x08 ≤ off ∧ off ≤ 0x0B := by
  rcases writeSlot_addr_ne h with hx | hx | hx | hx <;> rw [eq_offset_of_slotAt hx (by decide)] <;> decide

theorem Slot.offset_rxb_range : ∀ i : Fin 24, 0x20 ≤ (Slot.rxb i).offset ∧ (Slot.rxb i).offset ≤ 0x37 := by
  decide

theorem storeByte_rxb_ne {r : Regs} {off : Offset} {v : Byte} (h : (storeByte r off v).rxb ≠ r.rxb) :
    0x20 ≤ off ∧ off ≤ 0x37 := by
  obtain ⟨i, hx⟩ := writeSlot_rxb_ne h
  rw [eq_offset_of_slotAt hx (by simp)]
  exact Slot.offset_rxb_range i

/-- Settles O39: of the three things an event can do to the operands, the store of a byte is traced to its offset. -/
theorem operandsChangeOnlyByTheirOwnWriteOrReset : Obligations.OperandsChangeOnlyByTheirOwnWriteOrReset := by
  intro s t e rest hp h
  simp only [step_regs hp h, Event.isReset_iff]
  rcases eventRegs_operands e s.regs with hreset | ⟨off, v, rfl, hr⟩ | hsame
  · exact ⟨fun _ => .inl hreset, fun _ => .inl hreset, fun _ => .inl hreset, fun _ => .inl hreset, fun _ => .inl hreset⟩
  · rw [hr]
    refine ⟨fun hne => .inr ⟨v, ?_⟩, fun hne => .inr ⟨v, ?_⟩, fun hne => .inr ⟨v, ?_⟩, fun hne => .inr ?_, fun hne => .inr ?_⟩
    · rw [storeByte_arg] at hne ⊢
      obtain ⟨rfl, _⟩ := ite_ne_right_iff.mp hne
      exact ⟨rfl, rfl⟩
    · rw [storeByte_code] at hne ⊢
      obtain ⟨rfl, _⟩ := ite_ne_right_iff.mp hne
      exact ⟨rfl, rfl⟩
    · rw [storeByte_seq] at hne ⊢
      obtain ⟨rfl, _⟩ := ite_ne_right_iff.mp hne
      exact ⟨rfl, rfl⟩
    · obtain ⟨hlo, hhi⟩ := storeByte_addr_ne hne
      exact ⟨off, v, hlo, hhi, rfl⟩
    · obtain ⟨hlo, hhi⟩ := storeByte_rxb_ne hne
      exact ⟨off, v, hlo, hhi, rfl⟩
  · exact ⟨fun hne => absurd hsame.arg hne, fun hne => absurd hsame.code hne, fun hne => absurd hsame.seq hne,
      fun hne => absurd hsame.addr hne, fun hne => absurd hsame.rxb hne⟩

/-! ## The result buffers (10_state.md R26, R30) -/

theorem outcomeEffect_txb_ne {c : Command} {r : Regs} (h : (outcomeEffect c r).txb ≠ r.txb) :
    c = .assigned .srst ∨ c = .assigned .encode := by
  cases c with
  | illegal => exact absurd rfl h
  | assigned i =>
    cases i with
    | nop | crcInit | crcUpdate | clrErr => exact absurd rfl h
    | encode => exact .inr rfl
    | decode =>
      rw [outcomeEffect_decode] at h
      exact absurd rfl h
    | srst => exact .inl rfl

theorem outcomeEffect_decoded_ne {c : Command} {r : Regs} (h : (outcomeEffect c r).decoded ≠ r.decoded) :
    c = .assigned .srst ∨ c = .assigned .decode := by
  cases c with
  | illegal => exact absurd rfl h
  | assigned i =>
    cases i with
    | nop | crcInit | crcUpdate | encode | clrErr => exact absurd rfl h
    | decode => exact .inr rfl
    | srst => exact .inl rfl

/-- An event that runs no command leaves TXB, STATUS and the D_ registers as they are. -/
theorem eventRegs_results_of_no_command {e : Event} (h : e.command? = none) (r : Regs) :
    (eventRegs e r).txb = r.txb ∧ (eventRegs e r).status = r.status ∧ (eventRegs e r).decoded = r.decoded := by
  rcases eventRegs_of_no_command h r with hr | ⟨off, v, _, hr⟩
  · rw [hr]
    exact ⟨rfl, rfl, rfl⟩
  · rw [hr]
    exact storeByte_results r off v

/-- Settles O40: an event that runs no command changes neither buffer, and ENCODE, DECODE and SRST are the commands that do. -/
theorem resultBuffersChangeOnlyByTheirCommandOrReset : Obligations.ResultBuffersChangeOnlyByTheirCommandOrReset := by
  intro s t e rest hp h
  simp only [step_regs hp h, Event.isReset_iff, Event.isEncode_iff, Event.isDecode_iff]
  cases hc : e.command? with
  | none =>
    obtain ⟨htxb, _, hdecoded⟩ := eventRegs_results_of_no_command hc s.regs
    exact ⟨fun hne => absurd htxb hne, fun hne => absurd hdecoded hne⟩
  | some c =>
    rw [eventRegs_of_command hc]
    exact ⟨fun hne => (outcomeEffect_txb_ne hne).imp (congrArg some) (congrArg some),
      fun hne => (outcomeEffect_decoded_ne hne).imp (congrArg some) (congrArg some)⟩

/-! ## The STATUS flags (10_state.md R28) -/

theorem statusByte_layout (f : Status) :
    (statusByte f).getLsbD 0 = f.dvalid ∧ (statusByte f).getLsbD 1 = f.crcerr ∧ (statusByte f).getLsbD 2 = f.dauto ∧
    (statusByte f).getLsbD 3 = f.txvalid ∧ (statusByte f).getLsbD 4 = f.illcmd ∧ (statusByte f).extractLsb' 5 3 = 0 := by
  obtain ⟨dvalid, crcerr, dauto, txvalid, illcmd⟩ := f
  revert dvalid crcerr dauto txvalid illcmd
  decide

/-- One row of R28's table: a flag that is 0 goes to 1 exactly on `set`, and one that is 1 goes to 0 exactly on `clear`. -/
def FlagRow (before after : Bool) (set clear : Prop) : Prop :=
  (before = false → (after = true ↔ set)) ∧ (before = true → (after = false ↔ clear))

theorem FlagRow.hold {b : Bool} {set clear : Prop} (hset : ¬ set) (hclear : ¬ clear) : FlagRow b b set clear := by
  cases b <;> simp [FlagRow, hset, hclear]

theorem FlagRow.sets {b : Bool} {set clear : Prop} (hset : set) (hclear : ¬ clear) : FlagRow b true set clear := by
  simp [FlagRow, hset, hclear]

theorem FlagRow.clears {b : Bool} {set clear : Prop} (hset : ¬ set) (hclear : clear) : FlagRow b false set clear := by
  simp [FlagRow, hset, hclear]

/-- STATUS after an event, by the command whose effect it has: the columns of R28's table. -/
def statusAfter (r : Regs) : Option Command → Status
  | none | some (.assigned .nop) | some (.assigned .crcInit) | some (.assigned .crcUpdate) => r.status
  | some (.assigned .encode) => flagEncoded r.status
  | some (.assigned .decode) =>
    if crcOk r.rxb then flagDecoded (autoModeOf r.rxb) r.status else flagChecksumFailure r.status
  | some (.assigned .clrErr) => flagErrorsCleared r.status
  | some (.assigned .srst) => Status.reset
  | some .illegal => flagIllegalCommand r.status

theorem outcomeEffect_status (c : Command) (r : Regs) : (outcomeEffect c r).status = statusAfter r (some c) := by
  cases c with
  | illegal => rfl
  | assigned i =>
    cases i with
    | nop | crcInit | crcUpdate | encode | clrErr | srst => rfl
    | decode => rw [outcomeEffect_decode]; rfl

theorem statusAfter_decode_of_passes {r : Regs} (hok : crcOk r.rxb = true) :
    statusAfter r (some (.assigned .decode)) = flagDecoded (autoModeOf r.rxb) r.status :=
  if_pos hok

theorem statusAfter_decode_of_fails {r : Regs} (hok : ¬ crcOk r.rxb = true) :
    statusAfter r (some (.assigned .decode)) = flagChecksumFailure r.status :=
  if_neg hok

theorem eventRegs_status (e : Event) (r : Regs) : (eventRegs e r).status = statusAfter r e.command? := by
  cases hc : e.command? with
  | none =>
    obtain ⟨_, hstatus, _⟩ := eventRegs_results_of_no_command hc r
    exact hstatus
  | some c => rw [eventRegs_of_command hc, outcomeEffect_status]

theorem dvalid_row (r : Regs) (c : Option Command) :
    FlagRow r.status.dvalid (statusAfter r c).dvalid (c = some (.assigned .decode) ∧ crcOk r.rxb = true)
      ((c = some (.assigned .decode) ∧ ¬ crcOk r.rxb = true) ∨ c = some (.assigned .srst)) :=
  match c with
  | none | some .illegal | some (.assigned .nop) | some (.assigned .crcInit) | some (.assigned .crcUpdate)
  | some (.assigned .encode) | some (.assigned .clrErr) => .hold (by simp) (by simp)
  | some (.assigned .decode) => by
    by_cases hok : crcOk r.rxb = true
    · rw [statusAfter_decode_of_passes hok]
      exact .sets ⟨rfl, hok⟩ (by simp [hok])
    · rw [statusAfter_decode_of_fails hok]
      exact .clears (by simp [hok]) (.inl ⟨rfl, hok⟩)
  | some (.assigned .srst) => .clears (by simp) (by simp)

theorem crcerr_row (r : Regs) (c : Option Command) :
    FlagRow r.status.crcerr (statusAfter r c).crcerr (c = some (.assigned .decode) ∧ ¬ crcOk r.rxb = true)
      ((c = some (.assigned .decode) ∧ crcOk r.rxb = true) ∨ c = some (.assigned .clrErr) ∨ c = some (.assigned .srst)) :=
  match c with
  | none | some .illegal | some (.assigned .nop) | some (.assigned .crcInit) | some (.assigned .crcUpdate)
  | some (.assigned .encode) => .hold (by simp) (by simp)
  | some (.assigned .decode) => by
    by_cases hok : crcOk r.rxb = true
    · rw [statusAfter_decode_of_passes hok]
      exact .clears (by simp [hok]) (.inl ⟨rfl, hok⟩)
    · rw [statusAfter_decode_of_fails hok]
      exact .sets ⟨rfl, hok⟩ (by simp [hok])
  | some (.assigned .clrErr) | some (.assigned .srst) => .clears (by simp) (by simp)

theorem dauto_row (r : Regs) (c : Option Command) :
    FlagRow r.status.dauto (statusAfter r c).dauto
      (c = some (.assigned .decode) ∧ crcOk r.rxb = true ∧ autoModeOf r.rxb = true)
      ((c = some (.assigned .decode) ∧ crcOk r.rxb = true ∧ ¬ autoModeOf r.rxb = true) ∨
        (c = some (.assigned .decode) ∧ ¬ crcOk r.rxb = true) ∨ c = some (.assigned .srst)) :=
  match c with
  | none | some .illegal | some (.assigned .nop) | some (.assigned .crcInit) | some (.assigned .crcUpdate)
  | some (.assigned .encode) | some (.assigned .clrErr) => .hold (by simp) (by simp)
  | some (.assigned .decode) => by
    by_cases hok : crcOk r.rxb = true
    · rw [statusAfter_decode_of_passes hok]
      cases hauto : autoModeOf r.rxb with
      | true =>
        rw [flagDecoded_dauto]
        exact .sets ⟨rfl, hok, rfl⟩ (by simp [hok])
      | false =>
        rw [flagDecoded_dauto]
        exact .clears (by simp) (.inl ⟨rfl, hok, Bool.false_ne_true⟩)
    · rw [statusAfter_decode_of_fails hok]
      exact .clears (by simp [hok]) (.inr (.inl ⟨rfl, hok⟩))
  | some (.assigned .srst) => .clears (by simp) (by simp)

theorem txvalid_row (r : Regs) (c : Option Command) :
    FlagRow r.status.txvalid (statusAfter r c).txvalid (c = some (.assigned .encode)) (c = some (.assigned .srst)) :=
  match c with
  | none | some .illegal | some (.assigned .nop) | some (.assigned .crcInit) | some (.assigned .crcUpdate)
  | some (.assigned .clrErr) => .hold (by simp) (by simp)
  | some (.assigned .decode) => by
    by_cases hok : crcOk r.rxb = true
    · rw [statusAfter_decode_of_passes hok]
      exact .hold (by simp) (by simp)
    · rw [statusAfter_decode_of_fails hok]
      exact .hold (by simp) (by simp)
  | some (.assigned .encode) => .sets rfl (by simp)
  | some (.assigned .srst) => .clears (by simp) rfl

theorem illcmd_row (r : Regs) (c : Option Command) :
    FlagRow r.status.illcmd (statusAfter r c).illcmd (c = some .illegal)
      (c = some (.assigned .clrErr) ∨ c = some (.assigned .srst)) :=
  match c with
  | none | some (.assigned .nop) | some (.assigned .crcInit) | some (.assigned .crcUpdate)
  | some (.assigned .encode) => .hold (by simp) (by simp)
  | some (.assigned .decode) => by
    by_cases hok : crcOk r.rxb = true
    · rw [statusAfter_decode_of_passes hok]
      exact .hold (by simp) (by simp)
    · rw [statusAfter_decode_of_fails hok]
      exact .hold (by simp) (by simp)
  | some .illegal => .sets rfl (by simp)
  | some (.assigned .clrErr) | some (.assigned .srst) => .clears (by simp) (by simp)

/-- Settles O43: the layout of the STATUS byte, its reset value, its deafness to stores, and a `FlagRow` for each flag. -/
theorem flagsChangeOnlyAsTheTableSays : Obligations.FlagsChangeOnlyAsTheTableSays := by
  refine ⟨fun r => statusByte_layout r.status, rfl, fun s off v rest hoff => ?_, fun s t e rest hp h => ?_⟩
  · refine ⟨_, (step_event rfl).trans (deliver_eq _ _), ?_⟩
    rw [eventEffect_regs, eventRegs_store hoff, storeByte_status]
    rfl
  · simp only [step_regs hp h, eventRegs_status, Event.isReset_iff, Event.isEncode_iff, Event.isDecode_iff,
      Event.isClrErr_iff, Event.isIllegal_iff, ne_eq, ← crcOk_iff, ← autoModeOf_iff]
    obtain ⟨hdvalid, hdvalid'⟩ := dvalid_row s.regs e.command?
    obtain ⟨hcrcerr, hcrcerr'⟩ := crcerr_row s.regs e.command?
    obtain ⟨hdauto, hdauto'⟩ := dauto_row s.regs e.command?
    obtain ⟨htxvalid, htxvalid'⟩ := txvalid_row s.regs e.command?
    obtain ⟨hillcmd, hillcmd'⟩ := illcmd_row s.regs e.command?
    exact ⟨hdvalid, hdvalid', hcrcerr, hcrcerr', hdauto, hdauto', htxvalid, htxvalid', hillcmd, hillcmd'⟩

/-! ## Reset (10_state.md R44) -/

/-- Settles O1: the reset registers are the table, and hardware reset and SRST put them in place of the registers alone. -/
theorem resetGivesEveryRegisterItsValue : Obligations.ResetGivesEveryRegisterItsValue := by
  refine ⟨rfl, fun s rest => ?_, fun s => ?_⟩
  · rw [step_event (e := .reset) rfl, deliver_eq]
    rfl
  · rw [exec_eq_complete]
    rfl

end Sys2Proof.Machine

/-! SUPPORT. What a bus transaction reads and writes, slot by slot, and the statements of 20_memory.md: the rows of R62 and R63,
read after write, idempotence, and the order of events. -/

namespace Sys2Proof.Machine

open Sys2Proof

/-! ## Every slot is reached at its own offset (20_memory.md R64) -/

theorem slotAt_offset {x : Slot} (h : x ≠ .reserved) : slotAt x.offset = x := by
  cases x with
  | txb i => revert i; decide
  | rxb i => revert i; decide
  | reserved => exact absurd rfl h
  | _ => rfl

/-- A read at a slot's offset returns the slot; for a reserved slot this is CMD's offset, which reads 0x00 as well. -/
theorem busRead_offset (r : Regs) (x : Slot) : busRead r x.offset = readSlot r x := by
  by_cases h : x = .reserved
  · subst h; rfl
  · rw [busRead, slotAt_offset h]

/-- A store at a slot's offset writes the slot; for a reserved slot this is CMD's offset, which stores nothing as well. -/
theorem storeByte_offset (r : Regs) (x : Slot) (v : Byte) : storeByte r x.offset v = writeSlot r v x := by
  by_cases h : x = .reserved
  · subst h; rfl
  · rw [storeByte, slotAt_offset h]

theorem Slot.ne_reserved_of_writable {x : Slot} (h : x.writable = true) : x ≠ .reserved := by
  rintro rfl
  cases h

theorem Slot.offset_ne_cmd_of_writable {x : Slot} (h : x.writable = true) : x.offset ≠ 0x00 := by
  intro h0
  have hx : x = slotAt 0x00 := by rw [← h0, slotAt_offset (Slot.ne_reserved_of_writable h)]
  rw [hx] at h
  cases h

/-- The reserved offsets (R66). -/
theorem slotAt_eq_reserved_iff : ∀ off : Offset, slotAt off = .reserved ↔
    off = 0x03 ∨ (0x0C ≤ off ∧ off ≤ 0x0F) ∨ (0x1A ≤ off ∧ off ≤ 0x1F) ∨ (0x38 ≤ off ∧ off ≤ 0x3F) ∨ 0x4B ≤ off := by
  decide

/-- The read/write offsets (R63). -/
theorem slotAt_writable_iff : ∀ off : Offset, (slotAt off).writable = true ↔
    off = 0x01 ∨ (0x04 ≤ off ∧ off ≤ 0x0B) ∨ (0x20 ≤ off ∧ off ≤ 0x37) := by
  decide

theorem busRead_reserved {off : Offset} (h : slotAt off = .reserved) (r : Regs) : busRead r off = 0x00 := by
  rw [busRead, h]
  rfl

/-- Away from CMD, every offset that is not read/write ignores a store (R65, R66). -/
theorem storeByte_ignored {off : Offset} (h : off = 0x02 ∨ off = 0x03 ∨ (0x0C ≤ off ∧ off ≤ 0x1F) ∨ 0x38 ≤ off)
    (r : Regs) (v : Byte) : storeByte r off v = r := by
  have hro : (slotAt off).writable = false := by
    rw [← Bool.not_eq_true, slotAt_writable_iff]
    bv_omega
  exact writeSlot_ignored r v hro

/-! ## The step on a bus transaction -/

/-- A read's step records the byte and changes no register (R62). -/
theorem step_read (s : State) (off : Offset) (rest : List Event) :
    step { s with pending := .bus (.read off) :: rest } =
      .next { s with pending := rest, reads := s.reads ++ [busRead s.regs off] } :=
  (step_event rfl).trans (deliver_eq _ _)

/-- A write's step at CMD's offset runs the byte (R93). -/
theorem step_command (s : State) (v : Byte) (rest : List Event) :
    step { s with pending := .bus (.write 0x00 v) :: rest } = execute v { s with pending := rest } :=
  step_event (e := .bus (.write 0x00 v)) rfl

/-- A write's step at any offset but CMD's stores the byte (R63). -/
theorem step_store (s : State) {off : Offset} (h : off ≠ 0x00) (v : Byte) (rest : List Event) :
    step { s with pending := .bus (.write off v) :: rest } =
      .next { s with regs := storeByte s.regs off v, pending := rest } := by
  rw [step_event rfl, deliver_eq, ← eventRegs_store h]
  rfl

theorem step_store_slot (s : State) {x : Slot} (h : x.writable = true) (v : Byte) (rest : List Event) :
    step { s with pending := .bus (.write x.offset v) :: rest } =
      .next { s with regs := writeSlot s.regs v x, pending := rest } := by
  rw [step_store s (Slot.offset_ne_cmd_of_writable h), storeByte_offset]

theorem step_store_ignored (s : State) {off : Offset}
    (h : off = 0x02 ∨ off = 0x03 ∨ (0x0C ≤ off ∧ off ≤ 0x1F) ∨ 0x38 ≤ off) (v : Byte) (rest : List Event) :
    step { s with pending := .bus (.write off v) :: rest } = .next { s with pending := rest } := by
  rw [step_store s (by bv_omega), storeByte_ignored h]

/-- Settles O31: each row is the slot of its offset, and the reserved offsets are those without a slot of their own. -/
theorem busReadReturnsTheMappedByte : Obligations.BusReadReturnsTheMappedByte :=
  ⟨step_read, fun r =>
    ⟨busRead_offset r .cmd, busRead_offset r .arg, busRead_offset r .status, busRead_offset r .crcHi,
      busRead_offset r .crcLo, busRead_offset r .code, busRead_offset r .seq, busRead_offset r .addr3,
      busRead_offset r .addr2, busRead_offset r .addr1, busRead_offset r .addr0,
      fun i => busRead_offset r (.txb i), fun i => busRead_offset r (.rxb i),
      busRead_offset r .dState, busRead_offset r .dPower, busRead_offset r .dVolt10, busRead_offset r .dAmbient,
      busRead_offset r .dCase, busRead_offset r .dSetpoint, busRead_offset r .dMode, busRead_offset r .dPump10,
      busRead_offset r .dLqraw, busRead_offset r .dRssiHi, busRead_offset r .dRssiLo,
      fun off h => busRead_reserved ((slotAt_eq_reserved_iff off).mpr h) r⟩⟩

/-- Settles O32: CMD runs its byte, each read/write row is the store into its slot, and the other offsets ignore the byte. -/
theorem busWriteReplacesTheMappedByte : Obligations.BusWriteReplacesTheMappedByte := by
  intro s v rest
  have row {x : Slot} (h : x.writable = true) := step_store_slot s h v rest
  exact ⟨step_command s v rest, row (x := .arg) rfl, row (x := .crcHi) rfl, row (x := .crcLo) rfl, row (x := .code) rfl,
    row (x := .seq) rfl, row (x := .addr3) rfl, row (x := .addr2) rfl, row (x := .addr1) rfl, row (x := .addr0) rfl,
    fun i => row (x := .rxb i) rfl, fun off h => step_store_ignored s h v rest⟩

/-- Settles O33: the read-only and the reserved offsets are among those that ignore a store. -/
theorem readOnlyAndReservedOffsetsIgnoreWrites : Obligations.ReadOnlyAndReservedOffsetsIgnoreWrites := by
  refine fun s off v rest => ⟨fun h => ?_, fun h => ⟨?_, ?_⟩⟩
  · exact step_store_ignored s (by bv_omega) v rest
  · exact step_store_ignored s (by bv_omega) v rest
  · exact busRead_reserved ((slotAt_eq_reserved_iff off).mpr h) s.regs

/-! ## The address as four bytes (10_state.md R25) -/

/-- `{b3, b2, b1, b0}`, big-endian: the address that `addrByte3` to `addrByte0` take apart. -/
def joinAddr (b3 b2 b1 b0 : Byte) : Word := b3 ++ (b2 ++ (b1 ++ b0))

@[simp] theorem addrByte3_joinAddr (b3 b2 b1 b0 : Byte) : addrByte3 (joinAddr b3 b2 b1 b0) = b3 :=
  BitVec.extractLsb'_append_eq_left

@[simp] theorem addrByte2_joinAddr (b3 b2 b1 b0 : Byte) : addrByte2 (joinAddr b3 b2 b1 b0) = b2 :=
  (BitVec.extractLsb'_append_eq_of_add_le (by decide)).trans BitVec.extractLsb'_append_eq_left

@[simp] theorem addrByte1_joinAddr (b3 b2 b1 b0 : Byte) : addrByte1 (joinAddr b3 b2 b1 b0) = b1 :=
  (BitVec.extractLsb'_append_eq_of_add_le (by decide)).trans
    ((BitVec.extractLsb'_append_eq_of_add_le (by decide)).trans BitVec.extractLsb'_append_eq_left)

@[simp] theorem addrByte0_joinAddr (b3 b2 b1 b0 : Byte) : addrByte0 (joinAddr b3 b2 b1 b0) = b0 :=
  (BitVec.extractLsb'_append_eq_of_add_le (by decide)).trans
    ((BitVec.extractLsb'_append_eq_of_add_le (by decide)).trans BitVec.extractLsb'_append_eq_right)

/-- The bytes of an address from byte 0 up, joined: its low 16 and 24 bits. -/
theorem addrBytes_append (a : Word) :
    addrByte1 a ++ addrByte0 a = a.extractLsb' 0 16 ∧ addrByte2 a ++ a.extractLsb' 0 16 = a.extractLsb' 0 24 :=
  ⟨BitVec.extractLsb'_append_extractLsb'_eq_extractLsb' rfl, BitVec.extractLsb'_append_extractLsb'_eq_extractLsb' rfl⟩

theorem writeSlot_addr3 (r : Regs) (v : Byte) :
    writeSlot r v .addr3 = r.setAddr (joinAddr v (addrByte2 r.addr) (addrByte1 r.addr) (addrByte0 r.addr)) := by
  obtain ⟨h16, h24⟩ := addrBytes_append r.addr
  rw [joinAddr, h16, h24]
  rfl

theorem writeSlot_addr2 (r : Regs) (v : Byte) :
    writeSlot r v .addr2 = r.setAddr (joinAddr (addrByte3 r.addr) v (addrByte1 r.addr) (addrByte0 r.addr)) := by
  obtain ⟨h16, _⟩ := addrBytes_append r.addr
  rw [joinAddr, h16]
  rfl

theorem writeSlot_addr1 (r : Regs) (v : Byte) :
    writeSlot r v .addr1 = r.setAddr (joinAddr (addrByte3 r.addr) (addrByte2 r.addr) v (addrByte0 r.addr)) := by
  have h : addrByte3 r.addr ++ addrByte2 r.addr = r.addr.extractLsb' 16 16 :=
    BitVec.extractLsb'_append_extractLsb'_eq_extractLsb' rfl
  refine congrArg r.setAddr ?_
  rw [joinAddr, ← h, BitVec.append_assoc, BitVec.cast_eq]
  rfl

theorem writeSlot_addr0 (r : Regs) (v : Byte) :
    writeSlot r v .addr0 = r.setAddr (joinAddr (addrByte3 r.addr) (addrByte2 r.addr) (addrByte1 r.addr) v) := by
  have h : addrByte3 r.addr ++ (addrByte2 r.addr ++ addrByte1 r.addr) = r.addr.extractLsb' 8 24 := by
    rw [addrByte2, addrByte1, BitVec.extractLsb'_append_extractLsb'_eq_extractLsb' (start₁ := 8) (start₂ := 16) rfl]
    exact BitVec.extractLsb'_append_extractLsb'_eq_extractLsb' rfl
  refine congrArg r.setAddr ?_
  rw [joinAddr, ← h, BitVec.append_assoc, BitVec.cast_eq, BitVec.append_assoc, BitVec.cast_eq]

/-! ## Read after write, slot by slot (R62, R63) -/

/-- A writable slot reads the byte written to it. -/
theorem readSlot_writeSlot_same (r : Regs) (v : Byte) {x : Slot} (h : x.writable = true) :
    readSlot (writeSlot r v x) x = v := by
  cases x with
  | arg | code | seq => rfl
  | crcHi => exact highByte_joinBytes v _
  | crcLo => exact lowByte_joinBytes _ v
  | addr3 => rw [writeSlot_addr3]; exact addrByte3_joinAddr _ _ _ _
  | addr2 => rw [writeSlot_addr2]; exact addrByte2_joinAddr _ _ _ _
  | addr1 => rw [writeSlot_addr1]; exact addrByte1_joinAddr _ _ _ _
  | addr0 => rw [writeSlot_addr0]; exact addrByte0_joinAddr _ _ _ _
  | rxb i => exact Vector.getElem_set_self _
  | _ => cases h

/-- Every other slot reads as before: most stand in another register, and the bytes of one register are apart. -/
theorem readSlot_writeSlot_ne (r : Regs) (v : Byte) {x y : Slot} (h : y ≠ x) :
    readSlot (writeSlot r v x) y = readSlot r y := by
  cases x with
  | arg =>
    cases y with
    | arg => exact absurd rfl h
    | _ => rfl
  | code =>
    cases y with
    | code => exact absurd rfl h
    | _ => rfl
  | seq =>
    cases y with
    | seq => exact absurd rfl h
    | _ => rfl
  | crcHi =>
    cases y with
    | crcHi => exact absurd rfl h
    | crcLo => exact lowByte_joinBytes v _
    | _ => rfl
  | crcLo =>
    cases y with
    | crcHi => exact highByte_joinBytes _ v
    | crcLo => exact absurd rfl h
    | _ => rfl
  | addr3 =>
    cases y with
    | addr3 => exact absurd rfl h
    | addr2 | addr1 | addr0 => simp [writeSlot_addr3, readSlot]
    | _ => rfl
  | addr2 =>
    cases y with
    | addr2 => exact absurd rfl h
    | addr3 | addr1 | addr0 => simp [writeSlot_addr2, readSlot]
    | _ => rfl
  | addr1 =>
    cases y with
    | addr1 => exact absurd rfl h
    | addr3 | addr2 | addr0 => simp [writeSlot_addr1, readSlot]
    | _ => rfl
  | addr0 =>
    cases y with
    | addr0 => exact absurd rfl h
    | addr3 | addr2 | addr1 => simp [writeSlot_addr0, readSlot]
    | _ => rfl
  | rxb i =>
    cases y with
    | rxb j => exact Vector.getElem_set_ne i.isLt j.isLt fun hij => h (congrArg Slot.rxb (Fin.ext hij).symm)
    | _ => rfl
  | _ => rfl

/-- Settles O34: two offsets of which one is read/write have two slots. -/
theorem writtenByteReadsBackAndNoOtherChanges : Obligations.WrittenByteReadsBackAndNoOtherChanges := by
  intro r off off' v hoff
  have hw : (slotAt off).writable = true := (slotAt_writable_iff off).mpr hoff
  refine ⟨readSlot_writeSlot_same r v hw, fun hne => readSlot_writeSlot_ne r v fun hslot => hne ?_⟩
  exact (slotAt_injective hslot.symm (Slot.ne_reserved_of_writable hw)).symm

/-! ## Idempotence (R72) -/

/-- Writing a slot twice is writing it once: the second write finds every other byte as the first left it. -/
theorem writeSlot_writeSlot (r : Regs) (v : Byte) (x : Slot) : writeSlot (writeSlot r v x) v x = writeSlot r v x := by
  cases x with
  | crcHi =>
    refine congrArg r.setCrc (congrArg (joinBytes v) ?_)
    exact lowByte_joinBytes v _
  | crcLo =>
    refine congrArg r.setCrc (congrArg (joinBytes · v) ?_)
    exact highByte_joinBytes _ v
  | addr3 => simp [writeSlot_addr3, Regs.setAddr]
  | addr2 => simp [writeSlot_addr2, Regs.setAddr]
  | addr1 => simp [writeSlot_addr1, Regs.setAddr]
  | addr0 => simp [writeSlot_addr0, Regs.setAddr]
  | rxb i => simp [writeSlot, Regs.setRxb]
  | _ => rfl

theorem storeByte_storeByte (r : Regs) (off : Offset) (v : Byte) :
    storeByte (storeByte r off v) off v = storeByte r off v :=
  writeSlot_writeSlot r v (slotAt off)

theorem exec_crcUpdate (s : State) :
    exec .crcUpdate s = .next (s.withRegs (s.regs.setCrc (crcStep s.regs.crc s.regs.arg))) :=
  exec_eq_complete .crcUpdate s

/-- CRC_UPDATE is not idempotent where a second fold of ARG gives another accumulator. -/
theorem exec_crcUpdate_twice_ne {s : State}
    (h : crcStep (crcStep s.regs.crc s.regs.arg) s.regs.arg ≠ crcStep s.regs.crc s.regs.arg) :
    ∃ t u : State, exec .crcUpdate s = .next t ∧ exec .crcUpdate t = .next u ∧ u ≠ t :=
  ⟨_, _, exec_crcUpdate s, exec_crcUpdate _, fun heq => h (congrArg (fun t : State => t.regs.crc) heq)⟩

theorem crcStep_reset_twice_ne :
    crcStep (crcStep Regs.reset.crc Regs.reset.arg) Regs.reset.arg ≠ crcStep Regs.reset.crc Regs.reset.arg := by
  decide +kernel

/-- Settles O36: the repeated read and the repeated store are the lemmas above, and CRC_UPDATE's exception is shown at reset. -/
theorem writesAreIdempotentExceptAtCmd : Obligations.WritesAreIdempotentExceptAtCmd := by
  refine ⟨fun s off rest => ?_, fun s off v rest hoff => ?_, fun s => ?_, ?_⟩
  · exact ⟨_, _, step_read s off rest, rfl, step_read _ off rest, rfl, rfl, rfl⟩
  · refine ⟨_, step_store s hoff v rest, ?_⟩
    rw [step_store _ hoff, storeByte_storeByte]
  · exact ⟨_, _, exec_crcUpdate s, exec_crcUpdate _, rfl⟩
  · exact ⟨State.reset, exec_crcUpdate_twice_ne crcStep_reset_twice_ne⟩

/-! ## The order of events (R73) -/

/-- Where the first `k` steps complete, the steps after them run from the state they leave. -/
theorem run_add_of_next {M : Host.Core} {k : Nat} {s t : M.State} (h : M.run k s = .next t) (j : Nat) :
    M.run (k + j) s = M.run j t := by
  induction k generalizing s with
  | zero =>
    cases h
    rw [Nat.zero_add]
  | succ k ih =>
    rw [Nat.succ_add]
    cases hs : M.step s with
    | next u =>
      simp only [Host.Core.run, hs] at h ⊢
      exact ih h
    | fault r => simp [Host.Core.run, hs] at h
    | refused r => simp [Host.Core.run, hs] at h

/-- Settles O37: the first sequence leaves the same state whether or not the second waits behind it. -/
theorem eventsTakeEffectInOrder : Obligations.EventsTakeEffectInOrder := by
  intro es es' s
  have hfirst := run_events es s []
  rw [List.append_nil] at hfirst
  exact ⟨_, hfirst, rfl, run_add_of_next (run_events es s es') es'.length⟩

/-! ## Reset values and idle steps -/

/-- The slots of CRC hold 0xFFFF after reset, and every other slot 0x00 (10_state.md R44). -/
theorem readSlot_reset (x : Slot) : readSlot Regs.reset x = if x = .crcHi ∨ x = .crcLo then 0xFF else 0x00 := by
  cases x with
  | txb i => exact Vector.getElem_replicate _
  | rxb i => exact Vector.getElem_replicate _
  | _ => rfl

/-- Settles O35: the two offsets are those of the CRC's slots. -/
theorem everyOffsetReadsItsResetValue : Obligations.EveryOffsetReadsItsResetValue := by
  intro off
  have hhi : slotAt off = .crcHi ↔ off = 0x04 := ⟨fun h => eq_offset_of_slotAt h (by decide), fun h => h ▸ rfl⟩
  have hlo : slotAt off = .crcLo ↔ off = 0x05 := ⟨fun h => eq_offset_of_slotAt h (by decide), fun h => h ▸ rfl⟩
  exact (readSlot_reset (slotAt off)).trans (if_congr (or_congr hhi hlo) rfl rfl)

/-- Settles O48: the model has no event of its own to deliver. -/
theorem idleStepChangesNothing : Obligations.IdleStepChangesNothing := fun _ => step_idle

end Sys2Proof.Machine

/-! SUPPORT. The statements of 30_encoding.md: the decoder and the step on a command byte (R93, R94, R96), what each command reads
and writes (R91), and what the expansions of the loading and the reading pseudo-instructions do (R98). -/

namespace Sys2Proof.Machine

open Sys2Proof

/-! ## The decoder (R93, R94, R96) -/

/-- Settles O7, by both halves of the decoder's inverse. -/
theorem decodeAndEncodeAgree : Obligations.DecodeAndEncodeAgree := fun i _ =>
  ⟨eq_encode_of_decodeCommand, fun h => h ▸ decodeCommand_encode i⟩

/-- A byte is unassigned when it is no command's opcode. -/
theorem decodeCommand_eq_illegal_iff (v : Byte) : decodeCommand v = .illegal ↔ ∀ i, v ≠ encode i := by
  constructor
  · rintro h i rfl
    rw [decodeCommand_encode] at h
    cases h
  · intro h
    cases hc : decodeCommand v with
    | assigned i => exact absurd (eq_encode_of_decodeCommand hc) (h i)
    | illegal => rfl

/-- Settles O6: seven of the words are opcodes, and the last is none. -/
theorem opcodeWordsDecode : Obligations.OpcodeWordsDecode :=
  ⟨decodeCommand_encode .nop, decodeCommand_encode .crcInit, decodeCommand_encode .crcUpdate, decodeCommand_encode .encode,
    decodeCommand_encode .decode, decodeCommand_encode .clrErr, decodeCommand_encode .srst,
    rfl⟩

/-- The four ranges of R94 are the gaps between the opcodes. -/
theorem unassigned_iff_ranges (v : Byte) : (∀ i, v ≠ encode i) ↔
    (0x03 ≤ v ∧ v ≤ 0x0F) ∨ (0x11 ≤ v ∧ v ≤ 0x1F) ∨ (0x21 ≤ v ∧ v ≤ 0x2F) ∨ (0x31 ≤ v ∧ v ≤ 0xFE) := by
  constructor
  · intro h
    have h00 : v ≠ 0x00 := h .nop
    have h01 : v ≠ 0x01 := h .crcInit
    have h02 : v ≠ 0x02 := h .crcUpdate
    have h10 : v ≠ 0x10 := h .encode
    have h20 : v ≠ 0x20 := h .decode
    have h30 : v ≠ 0x30 := h .clrErr
    have hFF : v ≠ 0xFF := h .srst
    bv_omega
  · rintro h i rfl
    revert h
    cases i <;> decide

/-! ## The step on a command byte -/

theorem execute_assigned {v : Byte} {i : Instr} (h : decodeCommand v = .assigned i) (s : State) : execute v s = exec i s := by
  rw [execute, h]

theorem execute_illegal {v : Byte} (h : decodeCommand v = .illegal) (s : State) : execute v s = execIllegal s := by
  rw [execute, h]

/-- Settles O4, by cases along the decoder's chain of tests. -/
theorem cmdWriteRunsExecute : Obligations.CmdWriteRunsExecute := by
  intro s rest v
  rw [step_command]
  unfold execute decodeCommand
  split_ifs <;> rfl

/-- `withFetchWord` issues the byte itself: an 8-bit word loses nothing. -/
theorem tableWordByte_toNat (v : Byte) : tableWordByte 8 v.toNat = v := by
  rw [tableWordByte, Nat.mod_eq_of_lt v.isLt, BitVec.ofNat_toNat, BitVec.setWidth_eq]

theorem step_withFetchWord (s : State) (v : Byte) : step (s.withFetchWord 8 v.toNat) = execute v s := by
  rw [State.withFetchWord, tableWordByte_toNat]
  exact step_command s v s.pending

/-- Settles O5: both steps run the byte, and the byte runs its command. -/
theorem stepRunsTheDecodedInstruction : Obligations.StepRunsTheDecodedInstruction := fun s rest v _ hv _ =>
  ⟨(step_command s v rest).trans (execute_assigned hv _), (step_withFetchWord s v).trans (execute_assigned hv s)⟩

/-- Settles O8: the ranges by the decoder's inverse, the count by evaluation, the step by ILLEGAL's effect. -/
theorem unassignedBytesSetIllcmdOnly : Obligations.UnassignedBytesSetIllcmdOnly :=
  ⟨fun v => (decodeCommand_eq_illegal_iff v).trans (unassigned_iff_ranges v), by decide +kernel,
    fun s rest v hv => (step_command s v rest).trans (execute_illegal hv _)⟩

/-! ## What each command reads and writes (R91) -/

theorem exec_eq_next (i : Instr) (s : State) : exec i s = .next (s.withRegs (commandEffect i s.regs)) :=
  exec_eq_complete i s

/-- Of the registers, ENCODE's header reads CODE, SEQ and ADDR alone (R91); so do its CRC and its frame. -/
theorem commandHeader_congr {r r' : Regs} (hcode : r'.code = r.code) (hseq : r'.seq = r.seq) (haddr : r'.addr = r.addr) :
    commandHeader r' = commandHeader r := by
  simp only [commandHeader, hcode, hseq, haddr]

theorem commandCrc_congr {r r' : Regs} (hcode : r'.code = r.code) (hseq : r'.seq = r.seq) (haddr : r'.addr = r.addr) :
    commandCrc r' = commandCrc r :=
  congrArg crc16 (commandHeader_congr hcode hseq haddr)

theorem commandFrame_congr {r r' : Regs} (hcode : r'.code = r.code) (hseq : r'.seq = r.seq) (haddr : r'.addr = r.addr) :
    commandFrame r' = commandFrame r := by
  simp only [commandFrame, commandCrc_congr hcode hseq haddr, hcode, hseq, haddr]

theorem exec_decode_of_passes {s : State} (h : crcOk s.regs.rxb = true) :
    exec .decode s = .next (s.withRegs ((commitDecoded s.regs).setCrc (statusCrc s.regs.rxb))) := by
  rw [exec_eq_next, commandEffect, if_pos h]

theorem exec_decode_of_fails {s : State} (h : ¬ crcOk s.regs.rxb = true) :
    exec .decode s = .next (s.withRegs ((discardDecoded s.regs).setCrc (statusCrc s.regs.rxb))) := by
  rw [exec_eq_next, commandEffect, if_neg h]

/-- Settles O38, command by command; DECODE's two outcomes are those of the check, which RXB alone decides. -/
theorem commandsReadAndWriteTheirRegistersOnly : Obligations.CommandsReadAndWriteTheirRegistersOnly := by
  refine ⟨exec_eq_next .nop, fun s s' => ?crcInit, fun s s' hcrc harg => ?crcUpdate, fun s s' hcode hseq haddr => ?encode,
    fun s s' hrxb => ?decode, fun s s' => ?clrErr, fun s s' => ?srst, fun s s' v hv => ?illegal⟩
  case crcInit => exact ⟨_, _, exec_eq_next _ s, exec_eq_next _ s', rfl, rfl⟩
  case crcUpdate => exact ⟨_, _, exec_eq_next _ s, exec_eq_next _ s', rfl, congrArg₂ crcStep hcrc harg⟩
  case encode =>
    exact ⟨_, _, exec_eq_next _ s, exec_eq_next _ s', rfl, commandFrame_congr hcode hseq haddr,
      commandCrc_congr hcode hseq haddr, rfl⟩
  case decode =>
    by_cases hok : crcOk s.regs.rxb = true
    · exact ⟨_, _, exec_decode_of_passes hok, exec_decode_of_passes (hrxb ▸ hok), rfl, congrArg statusCrc hrxb,
        congrArg decodedFields hrxb, rfl, rfl, congrArg autoModeOf hrxb⟩
    · exact ⟨_, _, exec_decode_of_fails hok, exec_decode_of_fails (hrxb ▸ hok), rfl, congrArg statusCrc hrxb,
        rfl, rfl, rfl, rfl⟩
  case clrErr => exact ⟨_, _, exec_eq_next _ s, exec_eq_next _ s', rfl, rfl, rfl⟩
  case srst => exact ⟨_, _, exec_eq_next _ s, exec_eq_next _ s', rfl, rfl⟩
  case illegal => exact ⟨_, _, execute_illegal hv s, execute_illegal hv s', rfl, rfl⟩

/-! ## Runs of writes and runs of reads, slot by slot -/

/-- The write of a byte to a slot's offset. -/
def storeEvent (w : Slot × Byte) : Event := .bus (.write w.1.offset w.2)

/-- The read of a slot's offset. -/
def readEvent (x : Slot) : Event := .bus (.read x.offset)

/-- The registers after a list of stores, in order. -/
def storeAll (ws : List (Slot × Byte)) (r : Regs) : Regs := ws.foldl (fun r w => writeSlot r w.2 w.1) r

theorem eventEffect_storeEvent {w : Slot × Byte} (h : w.1.writable = true) (s : State) :
    eventEffect (storeEvent w) s = s.withRegs (writeSlot s.regs w.2 w.1) := by
  rw [← storeByte_offset, ← eventRegs_store (Slot.offset_ne_cmd_of_writable h)]
  rfl

theorem eventEffect_readEvent (x : Slot) (s : State) : eventEffect (readEvent x) s = s.pushRead (readSlot s.regs x) := by
  rw [← busRead_offset]
  rfl

theorem foldl_storeEvent {ws : List (Slot × Byte)} (h : ∀ w ∈ ws, w.1.writable = true) (s : State) :
    (ws.map storeEvent).foldl (fun u e => eventEffect e u) s = s.withRegs (storeAll ws s.regs) := by
  induction ws generalizing s with
  | nil => rfl
  | cons w ws ih =>
    rw [List.map_cons, List.foldl_cons, eventEffect_storeEvent (h w List.mem_cons_self),
      ih fun w hw => h w (List.mem_cons_of_mem _ hw)]
    rfl

theorem foldl_readEvent (xs : List Slot) (s : State) :
    (xs.map readEvent).foldl (fun u e => eventEffect e u) s =
      { s with reads := s.reads ++ xs.map (readSlot s.regs) } := by
  induction xs generalizing s with
  | nil => simp
  | cons x xs ih => simp [eventEffect_readEvent, ih]

/-- A run over writes to read/write slots stores each byte in turn and changes nothing else. -/
theorem run_writes {ws : List (Slot × Byte)} (h : ∀ w ∈ ws, w.1.writable = true) (s : State) (rest : List Event) :
    Host.Core.run Sys2Proof.core ws.length { s with pending := ws.map storeEvent ++ rest } =
      .next { s with regs := storeAll ws s.regs, pending := rest } := by
  have hrun := run_events (ws.map storeEvent) s rest
  rw [List.length_map, foldl_storeEvent h] at hrun
  exact hrun

/-- A run over reads returns the bytes of the slots in order and changes no register. -/
theorem run_reads (xs : List Slot) (s : State) (rest : List Event) :
    Host.Core.run Sys2Proof.core xs.length { s with pending := xs.map readEvent ++ rest } =
      .next { s with pending := rest, reads := s.reads ++ xs.map (readSlot s.regs) } := by
  have hrun := run_events (xs.map readEvent) s rest
  rw [List.length_map, foldl_readEvent] at hrun
  exact hrun

/-! ## The bytes that the expansions write (R98) -/

theorem ofNat_div_toNat {n : Nat} (v : BitVec n) (start : Nat) :
    BitVec.ofNat 8 (v.toNat / 2 ^ start) = v.extractLsb' start 8 := by
  rw [BitVec.extractLsb', Nat.shiftRight_eq_div_pow]

theorem ofNat_mod_256 (m : Nat) : BitVec.ofNat 8 (m % 256) = BitVec.ofNat 8 m :=
  BitVec.eq_of_toNat_eq (by simp)

theorem setcrc_events (c : Half) :
    programEvents [.setcrc c.toNat] = [(.crcHi, highByte c), (.crcLo, lowByte c)].map storeEvent := by
  have hhigh : BitVec.ofNat 8 (c.toNat / 256) = highByte c := ofNat_div_toNat c 8
  have hlow : BitVec.ofNat 8 (c.toNat % 256) = lowByte c := by
    rw [ofNat_mod_256, lowByte, ← ofNat_div_toNat, Nat.pow_zero, Nat.div_one]
  rw [← hhigh, ← hlow]
  rfl

theorem setaddr_events (a : Word) :
    programEvents [.setaddr a.toNat] =
      [(.addr3, addrByte3 a), (.addr2, addrByte2 a), (.addr1, addrByte1 a), (.addr0, addrByte0 a)].map storeEvent := by
  have h3 : BitVec.ofNat 8 (a.toNat / 16777216) = addrByte3 a := ofNat_div_toNat a 24
  have h2 : BitVec.ofNat 8 (a.toNat / 65536 % 256) = addrByte2 a := (ofNat_mod_256 _).trans (ofNat_div_toNat a 16)
  have h1 : BitVec.ofNat 8 (a.toNat / 256 % 256) = addrByte1 a := (ofNat_mod_256 _).trans (ofNat_div_toNat a 8)
  have h0 : BitVec.ofNat 8 (a.toNat % 256) = addrByte0 a := by
    rw [ofNat_mod_256, addrByte0, ← ofNat_div_toNat, Nat.pow_zero, Nat.div_one]
  rw [← h3, ← h2, ← h1, ← h0]
  rfl

theorem setcmd_events (code seq : Byte) :
    programEvents [.setcmd code.toNat seq.toNat] = [(.code, code), (.seq, seq)].map storeEvent := by
  simp [programEvents, expandProgram, expandLine, wrTxn, storeEvent, Slot.offset]

/-- The stores of `ldrx`: each byte of the frame to its place in RXB. -/
def frameStores (f : Vector Byte 24) : List (Slot × Byte) := (List.finRange 24).map fun i => (.rxb i, f[i])

theorem wrFrom_ofFn (off : Nat) {n : Nat} (g : Fin n → Nat) :
    wrFrom off (List.ofFn g) = List.ofFn fun i => wrTxn (off + i) (g i) := by
  induction n generalizing off with
  | zero => rfl
  | succ n ih => simp [List.ofFn_succ, wrFrom, ih, Nat.add_right_comm, Nat.add_assoc]

theorem map_toNat_toList {n : Nat} (f : Vector Byte n) : f.toList.map BitVec.toNat = List.ofFn fun i => f[i].toNat := by
  apply List.ext_getElem <;> simp

theorem ldrx_events (f : Vector Byte 24) :
    programEvents [.ldrx (f.toList.map BitVec.toNat)] = (frameStores f).map storeEvent := by
  have hexpand : expandProgram [.ldrx (f.toList.map BitVec.toNat)] =
      List.ofFn fun i : Fin 24 => wrTxn (0x20 + i) f[i].toNat := by
    rw [map_toNat_toList, ← wrFrom_ofFn]
    exact List.flatMap_singleton _ _
  rw [programEvents, hexpand, frameStores, List.ofFn_eq_map, List.map_map, List.map_map]
  refine List.map_congr_left fun i _ => ?_
  simp [storeEvent, Slot.offset, wrTxn]

/-! ## What the bytes leave in the registers -/

theorem storeAll_crc (r : Regs) (c : Half) : storeAll [(.crcHi, highByte c), (.crcLo, lowByte c)] r = r.setCrc c := by
  simp [storeAll, writeSlot, Regs.setCrc]

theorem joinAddr_addrBytes (a : Word) : joinAddr (addrByte3 a) (addrByte2 a) (addrByte1 a) (addrByte0 a) = a := by
  obtain ⟨h16, h24⟩ := addrBytes_append a
  rw [joinAddr, h16, h24]
  exact (BitVec.extractLsb'_append_extractLsb'_eq_extractLsb' rfl).trans BitVec.extractLsb'_eq_self

theorem storeAll_addr (r : Regs) (a : Word) :
    storeAll [(.addr3, addrByte3 a), (.addr2, addrByte2 a), (.addr1, addrByte1 a), (.addr0, addrByte0 a)] r = r.setAddr a := by
  simp only [storeAll, List.foldl_cons, List.foldl_nil, writeSlot_addr3, writeSlot_addr2, writeSlot_addr1, writeSlot_addr0,
    Regs.setAddr_addr, addrByte3_joinAddr, addrByte2_joinAddr, addrByte1_joinAddr, joinAddr_addrBytes]
  rfl

/-- Setting every listed place of a vector to another's entry. -/
theorem getElem_foldl_set {n : Nat} (f : Vector Byte n) (is : List (Fin n)) (v : Vector Byte n) (j : Fin n) :
    (is.foldl (fun u i => u.set i f[i]) v)[j] = if j ∈ is then f[j] else v[j] := by
  induction is generalizing v with
  | nil => simp
  | cons i is ih =>
    rw [List.foldl_cons, ih]
    by_cases hij : j = i
    · subst hij; simp
    · simp [hij, Fin.val_inj, Ne.symm hij]

/-- Stores into RXB touch RXB only, each its own byte. -/
theorem storeAll_rxb (f : Vector Byte 24) (is : List (Fin 24)) (r : Regs) :
    storeAll (is.map fun i => (.rxb i, f[i])) r = r.setRxb (is.foldl (fun u (i : Fin 24) => u.set i f[i]) r.rxb) := by
  induction is generalizing r with
  | nil => rfl
  | cons i is ih => exact ih (writeSlot r f[i] (.rxb i))

/-- Every place of RXB is among those `ldrx` stores to. -/
theorem storeAll_frameStores (r : Regs) (f : Vector Byte 24) : storeAll (frameStores f) r = r.setRxb f := by
  rw [frameStores, storeAll_rxb]
  refine congrArg r.setRxb (Vector.ext fun j hj => ?_)
  have hget := getElem_foldl_set f (List.finRange 24) r.rxb ⟨j, hj⟩
  rwa [if_pos (List.mem_finRange _)] at hget

/-- A line whose expansion is a list of stores into read/write slots runs to the registers they leave. -/
theorem run_loading {l : HostLine} {ws : List (Slot × Byte)} (hl : programEvents [l] = ws.map storeEvent)
    (hw : ws.all (·.1.writable) = true) {s : State} {r : Regs} (hr : storeAll ws s.regs = r) (rest : List Event) :
    Host.Core.run Sys2Proof.core ws.length { s with pending := programEvents [l] ++ rest } =
      .next { s with regs := r, pending := rest } := by
  rw [hl, ← hr]
  exact run_writes (List.all_eq_true.mp hw) s rest

/-- Settles O53: each expansion is a list of stores to read/write slots, and the stores leave the operand. -/
theorem loadingPseudoInstructionsLoad : Obligations.LoadingPseudoInstructionsLoad := fun s rest =>
  ⟨fun c => run_loading (setcrc_events c) rfl (storeAll_crc s.regs c) rest,
    fun a => run_loading (setaddr_events a) rfl (storeAll_addr s.regs a) rest,
    fun code seq => run_loading (setcmd_events code seq) rfl rfl rest,
    fun f => run_loading (ldrx_events f) rfl (storeAll_frameStores s.regs f) rest⟩

/-! ## What the reads bind (R98) -/

theorem bindings_singleton (l : HostLine) (bs : List Byte) : bindings [l] bs = (lineBinding l bs).toList :=
  List.append_nil _

theorem map_readSlot_txb (r : Regs) : ((List.finRange 10).map Slot.txb).map (readSlot r) = r.txb.toList := by
  apply List.ext_getElem <;> simp [readSlot]

/-- Settles O54: each expansion reads the register's slots in order, and the bytes read are joined again. -/
theorem readingPseudoInstructionsBind : Obligations.ReadingPseudoInstructionsBind := by
  refine fun s name => ⟨⟨_, run_reads [.crcHi, .crcLo] { s with reads := [] } [], rfl, ?rdcrc⟩,
    ⟨_, run_reads ((List.finRange 10).map .txb) { s with reads := [] } [], rfl, ?rdtx⟩,
    ⟨_, run_reads [.dRssiHi, .dRssiLo] { s with reads := [] } [], rfl, ?rdrssi⟩⟩
  case rdcrc => simp [bindings_singleton, lineBinding, readSlot]
  case rdtx =>
    rw [List.nil_append, map_readSlot_txb, bindings_singleton]
    simp [lineBinding]
  case rdrssi => simp [bindings_singleton, lineBinding, readSlot, s16]

end Sys2Proof.Machine

/-! SUPPORT. The statements of 40_crc.md: the loop is one-to-one and linear, what follows for the step (R111, R114), its table
form (R115) and the residue (R117), and what CRC_INIT and CRC_UPDATE leave in the accumulator (R113, R114). -/

namespace Sys2Proof.Machine

open Sys2Proof

/-! ## The loop body, bit by bit (R111) -/

theorem crcShift_getLsbD (c : Half) (i : Nat) :
    (crcShift c).getLsbD i = (c.getLsbD (i + 1) ^^ (c.getLsbD 0 && Config.crcPoly.getLsbD i)) := by
  unfold crcShift
  split
  · next h => rw [h, BitVec.getLsbD_xor, BitVec.getLsbD_ushiftRight, Bool.true_and, Nat.add_comm]
  · next h => rw [Bool.eq_false_of_not_eq_true h, BitVec.getLsbD_ushiftRight, Bool.false_and, Bool.xor_false, Nat.add_comm]

/-- The polynomial's top bit is 1, so the bit shifted out comes back as the new top bit. -/
theorem crcShift_getLsbD_top (c : Half) : (crcShift c).getLsbD 15 = c.getLsbD 0 := by
  rw [crcShift_getLsbD, BitVec.getLsbD_of_ge c _ (by decide), Bool.false_xor]
  exact Bool.and_true _

theorem crcShift_injective : Function.Injective crcShift := by
  intro a c h
  have hbit : a.getLsbD 0 = c.getLsbD 0 := by rw [← crcShift_getLsbD_top, h, crcShift_getLsbD_top]
  apply BitVec.eq_of_getLsbD_eq
  intro i _
  cases i with
  | zero => exact hbit
  | succ i =>
    have hi : (crcShift a).getLsbD i = (crcShift c).getLsbD i := by rw [h]
    rw [crcShift_getLsbD, crcShift_getLsbD, hbit] at hi
    exact Bool.xor_left_inj.mp hi

theorem crcShift_xor (a c : Half) : crcShift (a ^^^ c) = crcShift a ^^^ crcShift c := by
  apply BitVec.eq_of_getLsbD_eq
  intro i _
  simp only [crcShift_getLsbD, BitVec.getLsbD_xor, Bool.and_xor_distrib_right, Bool.xor_assoc, Bool.xor_left_comm]

theorem crcShift_of_even {c : Half} (h : c.getLsbD 0 = false) : crcShift c = c >>> 1 :=
  if_neg (by rw [h]; decide)

/-! ## The loop (R111) -/

theorem crcShifts_eq_iterate (n : Nat) (c : Half) : crcShifts n c = crcShift^[n] c := by
  induction n generalizing c with
  | zero => rfl
  | succ n ih => exact ih (crcShift c)

theorem crcShifts_injective (n : Nat) : Function.Injective (crcShifts n) := by
  rw [funext (crcShifts_eq_iterate n)]
  exact crcShift_injective.iterate n

theorem crcShifts_xor (n : Nat) (a c : Half) : crcShifts n (a ^^^ c) = crcShifts n a ^^^ crcShifts n c := by
  induction n generalizing a c with
  | zero => rfl
  | succ n ih => rw [crcShifts, crcShift_xor, ih, crcShifts, crcShifts]

/-- While the bits it examines are 0, the loop only shifts. -/
theorem crcShifts_of_low_zero {n : Nat} {c : Half} (h : ∀ i < n, c.getLsbD i = false) : crcShifts n c = c >>> n := by
  induction n generalizing c with
  | zero => rfl
  | succ n ih =>
    have hlow : ∀ i < n, (c >>> 1).getLsbD i = false := by
      intro i hi
      rw [BitVec.getLsbD_ushiftRight]
      exact h (1 + i) (by omega)
    rw [crcShifts, crcShift_of_even (h 0 n.succ_pos), ih hlow, ← BitVec.shiftRight_add, Nat.add_comm]

/-! ## The step -/

/-- Settles O9: the loop is the iterate of its body. -/
theorem crcStepIsTheBitLoop : Obligations.CrcStepIsTheBitLoop := fun c b =>
  crcShifts_eq_iterate 8 (c ^^^ b.zeroExtend 16)

theorem crcStep_injective (b : Byte) : Function.Injective fun c : Half => crcStep c b := fun _ _ h =>
  (BitVec.xor_left_inj _).mp (crcShifts_injective 8 h)

/-- Settles O14: the step is one-to-one on a finite set. -/
theorem crcStepIsABijection : Obligations.CrcStepIsABijection :=
  ⟨fun b => Finite.injective_iff_bijective.mp (crcStep_injective b), by decide⟩

/-- The step is linear over XOR (42_decode.md R161). -/
theorem crcStep_xor (a c : Half) (b d : Byte) : crcStep (a ^^^ c) (b ^^^ d) = crcStep a b ^^^ crcStep c d := by
  have hentry : (a ^^^ c) ^^^ (b ^^^ d).zeroExtend 16 = (a ^^^ b.zeroExtend 16) ^^^ (c ^^^ d.zeroExtend 16) := by
    rw [BitVec.zeroExtend_eq_setWidth, BitVec.setWidth_xor]
    ac_rfl
  simp only [crcStep, hentry, crcShifts_xor]

/-- The accumulator's own low byte cancels: all eight iterations only shift. -/
theorem crcStep_lowByte (c : Half) : crcStep c (lowByte c) = c >>> 8 := by
  have hlow : ∀ i < 8, (c ^^^ (lowByte c).zeroExtend 16).getLsbD i = false := by
    intro i hi
    have hi' : i < 16 := by omega
    simp [lowByte, hi, hi']
  have hhigh : (lowByte c).zeroExtend 16 >>> 8 = 0#16 := by
    apply BitVec.eq_of_getLsbD_eq
    intro i _
    simp
  rw [crcStep, crcShifts_of_low_zero hlow, BitVec.ushiftRight_xor_distrib, hhigh, BitVec.xor_zero]

/-! ## The table form (R115) -/

/-- The byte that the table looks up. -/
theorem setWidth_xor_zeroExtend (c : Half) (b : Byte) : (c ^^^ b.zeroExtend 16).setWidth 8 = lowByte c ^^^ b := by
  apply BitVec.eq_of_getLsbD_eq
  intro i hi
  simp [lowByte, hi]

/-- The input byte is the accumulator's low byte XOR the byte looked up: the first only shifts, the second is the entry. -/
theorem crcStep_eq_byTable (c : Half) (b : Byte) : crcStep c b = crcStepByTable c b := by
  calc crcStep c b
      = crcStep (c ^^^ 0#16) (lowByte c ^^^ (lowByte c ^^^ b)) := by
        rw [BitVec.xor_zero, ← BitVec.xor_assoc, BitVec.xor_self, BitVec.zero_xor]
    _ = (c >>> 8) ^^^ crcStep 0#16 (lowByte c ^^^ b) := by rw [crcStep_xor, crcStep_lowByte]
    _ = crcStepByTable c b := by rw [← setWidth_xor_zeroExtend]; rfl

theorem crcTable_entries :
    crcTable 0x00 = 0x0000 ∧ crcTable 0x01 = 0xC0C1 ∧ crcTable 0x02 = 0xC181 ∧ crcTable 0x80 = 0xA001 ∧
    crcTable 0xFF = 0x4040 := by decide +kernel

/-- Settles O11: the entries are the step from 0 by definition, so both clauses on the step are the one equation. -/
theorem crcTableFormEqualsTheLoop : Obligations.CrcTableFormEqualsTheLoop :=
  ⟨fun c b => ⟨crcStep_eq_byTable c b, crcStep_eq_byTable c b⟩, fun _ => rfl, crcTable_entries⟩

/-! ## The CRC of a sequence (R112, R116) -/

/-- Settles O10: `crc16` is the fold by definition. -/
theorem crcOfASequenceIsTheFold : Obligations.CrcOfASequenceIsTheFold :=
  ⟨crc16_nil, fun m b => crc16_append m [b], fun _ => rfl⟩

theorem crc16_checkInput : crc16 [0x31, 0x32, 0x33, 0x34, 0x35, 0x36, 0x37, 0x38, 0x39] = 0x4B37 := by decide +kernel

/-- Settles O12, by computation. -/
theorem crcCheckValues : Obligations.CrcCheckValues := ⟨crc16_nil, crc16_checkInput⟩

/-! ## The residue (R117) -/

theorem lowByte_ushiftRight_eight (c : Half) : lowByte (c >>> 8) = highByte c := by
  apply BitVec.eq_of_getLsbD_eq
  intro i _
  rw [lowByte_getLsbD, highByte_getLsbD, BitVec.getLsbD_ushiftRight]

/-- Each byte of the accumulator, fed low byte first, shifts itself out. -/
theorem crcStep_lowByte_highByte (c : Half) : crcStep (crcStep c (lowByte c)) (highByte c) = 0 := by
  rw [crcStep_lowByte, ← lowByte_ushiftRight_eight, crcStep_lowByte, ← BitVec.shiftRight_add]
  exact BitVec.ushiftRight_eq_zero (by decide)

theorem crc16_residue (m : List Byte) : crc16 (m ++ [lowByte (crc16 m), highByte (crc16 m)]) = 0 := by
  rw [crc16_append]
  exact crcStep_lowByte_highByte (crc16 m)

/-- Settles O15: the first example is the residue of the check input, the second goes on from the check value. -/
theorem crcResidueIsZeroLowByteFirst : Obligations.CrcResidueIsZeroLowByteFirst := by
  refine ⟨crc16_residue, ?_, ?_⟩
  · have h := crc16_residue [0x31, 0x32, 0x33, 0x34, 0x35, 0x36, 0x37, 0x38, 0x39]
    rw [crc16_checkInput] at h
    exact h
  · have h := crc16_append [0x31, 0x32, 0x33, 0x34, 0x35, 0x36, 0x37, 0x38, 0x39] [0x4B, 0x37]
    rw [crc16_checkInput] at h
    exact h.trans (by decide +kernel)

/-! ## CRC_INIT and CRC_UPDATE (R113, R114) -/

theorem highByte_crcInit : highByte Config.crcInit = 0xFF := by decide

theorem lowByte_crcInit : lowByte Config.crcInit = 0xFF := by decide

/-- Settles O16: the second CRC_INIT writes the value that is there. -/
theorem crcInitSetsTheAccumulator : Obligations.CrcInitSetsTheAccumulator :=
  ⟨decodeCommand_encode .crcInit, fun s => ⟨_, exec_eq_next .crcInit s, rfl, exec_eq_next .crcInit _,
    (busRead_offset _ .crcHi).trans highByte_crcInit, (busRead_offset _ .crcLo).trans lowByte_crcInit, crc16_nil.symm⟩⟩

/-- Settles O17. -/
theorem crcUpdateFoldsArg : Obligations.CrcUpdateFoldsArg :=
  ⟨decodeCommand_encode .crcUpdate, exec_crcUpdate⟩

/-! ## Feeding a byte sequence (R114) -/

theorem eventEffect_command (i : Instr) (s : State) :
    eventEffect (commandEvent (encode i)) s = s.withRegs (commandEffect i s.regs) := by
  rw [← executeEffect_assigned (decodeCommand_encode i), ← eventRegs_command]
  rfl

/-- The two writes by which a host folds a byte in: ARG, then CRC_UPDATE. -/
def feedByte (b : Byte) : List Event := [storeEvent (.arg, b), commandEvent (encode .crcUpdate)]

theorem length_flatMap_feedByte (m : List Byte) : (m.flatMap feedByte).length = 2 * m.length := by
  induction m with
  | nil => rfl
  | cons b m ih =>
    rw [List.flatMap_cons, List.length_append, ih, List.length_cons, Nat.mul_succ, Nat.add_comm]
    rfl

theorem foldl_feedByte (b : Byte) (s : State) :
    (feedByte b).foldl (fun u e => eventEffect e u) s = s.withRegs ((s.regs.setArg b).setCrc (crcStep s.regs.crc b)) := by
  rw [feedByte, List.foldl_cons, eventEffect_storeEvent rfl, List.foldl_cons, eventEffect_command]
  rfl

/-- Bytes fed one after another leave the fold of the step in CRC and the last byte in ARG. -/
theorem foldl_flatMap_feedByte (m : List Byte) (s : State) :
    (m.flatMap feedByte).foldl (fun u e => eventEffect e u) s =
      s.withRegs ((s.regs.setCrc (m.foldl crcStep s.regs.crc)).setArg (m.getLast?.getD s.regs.arg)) := by
  induction m generalizing s with
  | nil => rfl
  | cons b m ih =>
    rw [List.flatMap_cons, List.foldl_append, foldl_feedByte, ih, List.getLast?_cons]
    rfl

/-- Settles O18: CRC_INIT starts the fold that the bytes then carry on. -/
theorem accumulatorComputesCrcOfTheBytesFed : Obligations.AccumulatorComputesCrcOfTheBytesFed := by
  intro s m rest
  have hrun := run_events (commandEvent (encode .crcInit) :: m.flatMap feedByte) s rest
  rw [List.length_cons, length_flatMap_feedByte, Nat.add_comm, List.foldl_cons, eventEffect_command,
    foldl_flatMap_feedByte] at hrun
  exact hrun

end Sys2Proof.Machine

/-! SUPPORT. The statements of 41_encode.md: what ENCODE leaves in the registers (R130, R131), that its frame carries the CRC of
its own first seven bytes (R133), and that the accumulator's commands recompute that CRC (R132). -/

namespace Sys2Proof.Machine

open Sys2Proof

/-! ## What ENCODE leaves in TXB and CRC (R131, R133) -/

/-- ENCODE's frame and CRC are functions of CODE, SEQ and ADDR, which it leaves as they are. -/
theorem commandEffect_encode_twice (r : Regs) :
    commandEffect .encode (commandEffect .encode r) = commandEffect .encode r := by
  have hframe : commandFrame (commandEffect .encode r) = commandFrame r := commandFrame_congr rfl rfl rfl
  have hcrc : commandCrc (commandEffect .encode r) = commandCrc r := commandCrc_congr rfl rfl rfl
  conv_lhs => rw [commandEffect, hframe, hcrc]
  rfl

theorem crc16_txb_take_encode (r : Regs) :
    crc16 ((commandEffect .encode r).txb.toList.take 7) =
      (commandEffect .encode r).txb[7] ++ (commandEffect .encode r).txb[8] :=
  commandFrame_crc r

/-- The CRC register holds the CRC of the frame's header, which the frame's own bytes 0 to 6 are. -/
theorem crc_encode (r : Regs) : (commandEffect .encode r).crc = crc16 ((commandEffect .encode r).txb.toList.take 7) :=
  congrArg crc16 (commandFrame_take r).symm

/-! ## The host's recomputation (R132) -/

/-- Whatever TXB holds, the fifteen writes of R132 leave the CRC of its first seven bytes in CRC. -/
theorem run_recompute_txb_crc (t : State) (rest : List Event) :
    ∃ u : State, Host.Core.run Sys2Proof.core 15
      { t with pending := (commandEvent 0x01 ::
          (t.regs.txb.toList.take 7).flatMap fun b => [.bus (.write 0x01 b), commandEvent 0x02]) ++ rest } = .next u ∧
      u.regs.crc = crc16 (t.regs.txb.toList.take 7) := by
  have hlen : (t.regs.txb.toList.take 7).length = 7 := by simp
  have hrun := accumulatorComputesCrcOfTheBytesFed t (t.regs.txb.toList.take 7) rest
  rw [hlen] at hrun
  exact ⟨_, hrun, rfl⟩

/-- Settles O21: the bytes fed are the frame's header, whose CRC the frame and the CRC register hold. -/
theorem hostRecomputesTheFrameCrc : Obligations.HostRecomputesTheFrameCrc := by
  intro s rest
  obtain ⟨u, hrun, hcrc⟩ := run_recompute_txb_crc (s.withRegs (commandEffect .encode s.regs)) rest
  exact ⟨_, u, exec_eq_next .encode s, hrun, hcrc.trans (crc16_txb_take_encode s.regs), hcrc.trans (crc_encode s.regs).symm⟩

/-! ## ENCODE's other statements (R131, R133) -/

/-- Settles O19: the register effect is the frame of R130 by definition, and a second ENCODE repeats it. -/
theorem encodeBuildsTheCommandFrame : Obligations.EncodeBuildsTheCommandFrame := by
  refine ⟨decodeCommand_encode .encode, fun s => ⟨_, exec_eq_next .encode s, rfl, ?again⟩⟩
  case again => rw [exec_eq_next, State.withRegs_regs, commandEffect_encode_twice]; rfl

/-- Settles O20. -/
theorem encodedFrameCarriesItsCrc : Obligations.EncodedFrameCarriesItsCrc := fun s =>
  ⟨_, exec_eq_next .encode s, crc16_txb_take_encode s.regs, (crc_encode s.regs).trans (crc16_txb_take_encode s.regs)⟩

end Sys2Proof.Machine

/-! SUPPORT. The statements of 42_decode.md: what the check covers and what it detects (R151, R160, R161), DECODE's two outcomes
(R152, R153), and what the committed fields mean in physical units (R154 to R159). -/

namespace Sys2Proof.Machine

open Sys2Proof

/-! ## The CRC tells two sequences apart that differ in one byte (R161) -/

/-- Settles O13: both the entry of the byte and the loop are linear. -/
theorem crcStepIsLinear : Obligations.CrcStepIsLinear := crcStep_xor

/-- From one accumulator, two bytes lead to two accumulators. -/
theorem crcStep_byte_injective (c : Half) : Function.Injective (crcStep c) := by
  intro b d h
  have hentry : b.zeroExtend 16 = d.zeroExtend 16 := (BitVec.xor_right_inj c).mp (crcShifts_injective 8 h)
  have hlow : (b.zeroExtend 16).setWidth 8 = (d.zeroExtend 16).setWidth 8 := congrArg _ hentry
  simpa using hlow

/-- A difference of the accumulators outlives every byte that follows. -/
theorem foldl_crcStep_injective (m : List Byte) : Function.Injective fun c : Half => m.foldl crcStep c := by
  induction m with
  | nil => exact fun _ _ h => h
  | cons b m ih => exact fun _ _ h => crcStep_injective b (ih h)

theorem foldl_crcStep_set_ne {m : List Byte} {k : Nat} (hk : k < m.length) {v : Byte} (hv : v ≠ m[k]) (c : Half) :
    (m.set k v).foldl crcStep c ≠ m.foldl crcStep c := by
  induction m generalizing k c with
  | nil => cases hk
  | cons b m ih =>
    cases k with
    | zero => exact fun h => hv (crcStep_byte_injective c (foldl_crcStep_injective m h))
    | succ k => exact ih (Nat.lt_of_succ_lt_succ hk) hv (crcStep c b)

/-! ## What the check covers (R151, R160) -/

/-- Setting a byte of the frame sets it among the covered ones, if it is one of them. -/
theorem statusCovered_set (rxb : Vector Byte 24) {k : Nat} (hk : k < 24) (v : Byte) :
    statusCovered (rxb.set k v) = (statusCovered rxb).set k v := by
  simp [statusCovered, Vector.toList_set, List.take_set]

theorem statusCrc_set_covered_ne {rxb : Vector Byte 24} {k : Nat} (hk : k < 19) {v : Byte} (hv : v ≠ rxb[k]) :
    statusCrc (rxb.set k v) ≠ statusCrc rxb := by
  rw [statusCrc, statusCovered_set]
  exact foldl_crcStep_set_ne (by simpa [statusCovered] using hk) (by simpa [statusCovered] using hv) _

theorem statusCrc_set_uncovered (rxb : Vector Byte 24) {k : Nat} (h19 : 19 ≤ k) (hk : k < 24) (v : Byte) :
    statusCrc (rxb.set k v) = statusCrc rxb := by
  rw [statusCrc, statusCovered_set, List.set_eq_of_length_le (by simpa [statusCovered] using h19), statusCrc]

theorem receivedCrc_set {rxb : Vector Byte 24} {k : Nat} (hk : k < 24) (h19 : k ≠ 19) (h20 : k ≠ 20) (v : Byte) :
    receivedCrc (rxb.set k v) = receivedCrc rxb := by
  simp [receivedCrc, h19, h20]

/-- The received CRC holds each of its two bytes. -/
theorem joinBytes_inj {h l h' l' : Byte} : joinBytes h l = joinBytes h' l' ↔ h = h' ∧ l = l' := by
  constructor
  · intro heq
    exact ⟨by simpa using congrArg highByte heq, by simpa using congrArg lowByte heq⟩
  · rintro ⟨rfl, rfl⟩
    rfl

/-- The check compares the two CRCs (R151). -/
theorem crcOk_iff_statusCrc (rxb : Vector Byte 24) : crcOk rxb = true ↔ statusCrc rxb = receivedCrc rxb :=
  beq_iff_eq

theorem not_crcOk_set_covered {rxb : Vector Byte 24} (hok : crcOk rxb = true) {k : Nat} (hk : k < 19) {v : Byte}
    (hv : v ≠ rxb[k]) : ¬ crcOk (rxb.set k v) = true := by
  rw [crcOk_iff_statusCrc] at hok ⊢
  rw [receivedCrc_set (by omega) (by omega) (by omega), ← hok]
  exact statusCrc_set_covered_ne hk hv

theorem not_crcOk_set_received {rxb : Vector Byte 24} (hok : crcOk rxb = true) {h l : Byte}
    (hne : ¬ (h = rxb[19] ∧ l = rxb[20])) : ¬ crcOk ((rxb.set 19 h).set 20 l) = true := by
  rw [crcOk_iff_statusCrc] at hok ⊢
  have hreceived : receivedCrc ((rxb.set 19 h).set 20 l) = joinBytes h l := by simp [receivedCrc]
  rw [statusCrc_set_uncovered _ (by decide), statusCrc_set_uncovered _ (by decide), hok, hreceived, receivedCrc, joinBytes_inj]
  rintro ⟨h19, h20⟩
  exact hne ⟨h19.symm, h20.symm⟩

/-- The frame with its last three bytes replaced. -/
def replaceTail (rxb : Vector Byte 24) (b21 b22 b23 : Byte) : Vector Byte 24 :=
  ((rxb.set 21 b21).set 22 b22).set 23 b23

theorem statusCrc_replaceTail (rxb : Vector Byte 24) (b21 b22 b23 : Byte) :
    statusCrc (replaceTail rxb b21 b22 b23) = statusCrc rxb := by
  rw [replaceTail, statusCrc_set_uncovered _ (by decide), statusCrc_set_uncovered _ (by decide),
    statusCrc_set_uncovered _ (by decide)]

theorem crcOk_replaceTail (rxb : Vector Byte 24) (b21 b22 b23 : Byte) :
    crcOk (replaceTail rxb b21 b22 b23) = crcOk rxb := by
  have hreceived : receivedCrc (replaceTail rxb b21 b22 b23) = receivedCrc rxb := by
    simp [replaceTail, receivedCrc_set]
  rw [crcOk, statusCrc_replaceTail, hreceived, crcOk]

theorem autoModeOf_replaceTail (rxb : Vector Byte 24) (b21 b22 b23 : Byte) :
    autoModeOf (replaceTail rxb b21 b22 b23) = autoModeOf rxb := by
  simp [autoModeOf, replaceTail]

/-- Of the fields, the link quality alone comes from behind the CRC. -/
theorem decodedFields_replaceTail (rxb : Vector Byte 24) (b21 b22 b23 : Byte) :
    decodedFields (replaceTail rxb b21 b22 b23) = { decodedFields rxb with lqraw := b22, rssi := rssiOf b22 } := by
  simp [decodedFields, replaceTail]

/-- Settles O28: a covered byte changes the computed CRC alone, and bytes 19 and 20 the received one alone. -/
theorem singleByteChangesAreDetected : Obligations.SingleByteChangesAreDetected := by
  intro s h
  have hok : crcOk s.regs.rxb = true := (crcOk_iff _).mpr h
  refine ⟨fun k e hk he => ?covered, fun b19 b20 hne => ?received⟩
  case covered =>
    have hv : s.regs.rxb[k] ^^^ e ≠ s.regs.rxb[k] := fun hx =>
      he ((BitVec.xor_right_inj _).mp (hx.trans BitVec.xor_zero.symm))
    refine ⟨_, exec_decode_of_fails (not_crcOk_set_covered hok (by omega) hv), rfl, rfl, ?_⟩
    rw [← h]
    exact statusCrc_set_covered_ne (by omega) hv
  case received => exact ⟨_, exec_decode_of_fails (not_crcOk_set_received hok hne), rfl, rfl⟩

/-- Settles O27: the check and every other field read bytes before the last three. -/
theorem bytesOutsideTheCrcAreNotChecked : Obligations.BytesOutsideTheCrcAreNotChecked := by
  intro s b21 b22 b23 h
  have hok : crcOk s.regs.rxb = true := (crcOk_iff _).mpr h
  have hok' : crcOk (replaceTail s.regs.rxb b21 b22 b23) = true := (crcOk_replaceTail ..).trans hok
  exact ⟨_, _, exec_decode_of_passes hok, exec_decode_of_passes hok',
    congrArg (flagDecoded · s.regs.status) (autoModeOf_replaceTail ..), rfl, statusCrc_replaceTail ..,
    decodedFields_replaceTail ..⟩

/-! ## DECODE's two outcomes (R152, R153, R159) -/

@[simp] theorem commitDecoded_rxb (r : Regs) : (commitDecoded r).rxb = r.rxb := rfl

@[simp] theorem discardDecoded_rxb (r : Regs) : (discardDecoded r).rxb = r.rxb := rfl

/-- DECODE reads RXB, which it does not write, so a second one finds what the first found. -/
theorem commandEffect_decode_twice (r : Regs) :
    commandEffect .decode (commandEffect .decode r) = commandEffect .decode r := by
  by_cases hok : crcOk r.rxb = true
  · simp only [commandEffect, hok, if_true, Regs.setCrc_rxb, commitDecoded_rxb]
    rfl
  · simp only [commandEffect, hok, if_false, Bool.false_eq_true, Regs.setCrc_rxb, discardDecoded_rxb]
    rfl

/-- Settles O22, by the two outcomes of the check. -/
theorem decodeCommitsOnlyACheckedFrame : Obligations.DecodeCommitsOnlyACheckedFrame := by
  refine ⟨decodeCommand_encode .decode, fun s => ⟨_, exec_eq_next .decode s, ?effect, ?again⟩⟩
  case effect =>
    by_cases hok : crcOk s.regs.rxb = true
    · rw [commandEffect, if_pos hok]
      exact (if_pos ((crcOk_iff _).mp hok)).symm
    · rw [commandEffect, if_neg hok]
      exact (if_neg (mt (crcOk_iff _).mpr hok)).symm
  case again =>
    rw [exec_eq_next, State.withRegs_regs, commandEffect_decode_twice]
    rfl

/-- The slots of the D_ registers. -/
def Slot.isDecoded : Slot → Bool
  | .dState | .dPower | .dVolt10 | .dAmbient | .dCase | .dSetpoint | .dMode | .dPump10 | .dLqraw | .dRssiHi | .dRssiLo => true
  | .cmd | .arg | .status | .crcHi | .crcLo | .code | .seq | .addr3 | .addr2 | .addr1 | .addr0 | .txb _ | .rxb _
  | .reserved => false

theorem slotAt_isDecoded : ∀ off : Offset, 0x40 ≤ off → off ≤ 0x4A → (slotAt off).isDecoded = true := by
  decide

theorem readSlot_of_decoded_zero {r : Regs} (h : r.decoded = Decoded.zero) {x : Slot} (hx : x.isDecoded = true) :
    readSlot r x = 0x00 := by
  cases x with
  | dState | dPower | dVolt10 | dAmbient | dCase | dSetpoint | dMode | dPump10 | dLqraw | dRssiHi | dRssiLo =>
    simp only [readSlot, h]
    rfl
  | _ => cases hx

theorem decodedStatus_of_not_dvalid {r : Regs} (h : r.status.dvalid = false) : decodedStatus r = none := by
  rw [decodedStatus, h]
  rfl

/-- Settles O23: the D_ registers are zeroed, and DVALID with them. -/
theorem failedDecodeLeavesNoFieldToRead : Obligations.FailedDecodeLeavesNoFieldToRead := fun _ h =>
  ⟨_, exec_decode_of_fails (mt (crcOk_iff _).mp h), rfl, decodedStatus_of_not_dvalid rfl,
    fun off hlo hhi => readSlot_of_decoded_zero rfl (slotAt_isDecoded off hlo hhi)⟩

/-- Settles O26, by the two outcomes of the check. -/
theorem autoModeIsExactlyTheAutoByte : Obligations.AutoModeIsExactlyTheAutoByte := by
  intro s
  rw [← crcOk_iff, ← autoModeOf_iff]
  by_cases hok : crcOk s.regs.rxb = true
  · exact ⟨_, exec_decode_of_passes hok, ⟨fun hauto => ⟨hauto, hok⟩, And.left⟩, fun _ => rfl⟩
  · exact ⟨_, exec_decode_of_fails hok, ⟨fun hauto => absurd hauto Bool.false_ne_true, fun hboth => absurd hboth.2 hok⟩,
      fun hpass => absurd hpass hok⟩

/-! ## Physical values (R154 to R158) -/

theorem tenths_eq (b : Byte) : (u8 b : Rat) / 10 = (b.toNat : Rat) / 10 := by
  rw [u8, Int.cast_natCast]

/-- A reading in tenths, of a volt or of a hertz, goes from 0.0 to 25.5 (R155, R156). -/
theorem tenths_range (b : Byte) : (0 : Rat) ≤ (u8 b : Rat) / 10 ∧ (u8 b : Rat) / 10 ≤ 255 / 10 := by
  have hmax : (b.toNat : Rat) ≤ 255 := by exact_mod_cast Nat.le_of_lt_succ b.isLt
  rw [tenths_eq]
  exact ⟨by positivity, by linarith⟩

/-- Settles O24: the fields are raw copies, and each reading is its field's. -/
theorem decodedFieldsHaveTheirPhysicalValues : Obligations.DecodedFieldsHaveTheirPhysicalValues := by
  intro s h
  obtain ⟨hvolt0, hvolt⟩ := tenths_range s.regs.rxb[9]
  obtain ⟨hpump0, hpump⟩ := tenths_range s.regs.rxb[15]
  exact ⟨_, _, exec_decode_of_passes ((crcOk_iff _).mpr h), rfl, rfl, rfl, rfl, rfl, rfl, tenths_eq _, hvolt0, hvolt,
    rfl, tenths_eq _, hpump0, hpump, rfl, rfl, rfl, rfl, rfl, rfl⟩

/-- The source's "signed-interpret" is two's complement. -/
theorem toInt_eq_s8 (b : Byte) : b.toInt = s8 b := by
  unfold s8
  rw [BitVec.toInt_eq_toNat_cond]
  split_ifs <;> omega

theorem s8_range (b : Byte) : -128 ≤ s8 b ∧ s8 b ≤ 127 := by
  have hb := b.isLt
  unfold s8
  split_ifs <;> omega

/-- The subtraction does not overflow 16 bits (R158). -/
theorem toInt_rssiOf (b : Byte) : (rssiOf b).toInt = s8 b - 148 := by
  obtain ⟨hlo, hhi⟩ := s8_range b
  have hoffset : Config.rssiOffsetHalfDbm.toInt = 148 := by decide
  rw [rssiOf, BitVec.toInt_sub, BitVec.toInt_signExtend_of_le (by decide), toInt_eq_s8, hoffset]
  exact Int.bmod_eq_of_le (by omega) (by omega)

/-- Halving the half-dBm gives the source's formula. -/
theorem half_toInt_rssiOf (b : Byte) : (s16 (rssiOf b) : Rat) / 2 = (s8 b : Rat) / 2 - 74 := by
  rw [s16, toInt_rssiOf]
  push_cast
  ring

/-- Settles O25: D_RSSI is `rssiOf` of byte 22. -/
theorem rssiIsExactInHalfDbm : Obligations.RssiIsExactInHalfDbm := by
  intro s h
  obtain ⟨hlo, hhi⟩ := s8_range s.regs.rxb[22]
  have hrssi := toInt_rssiOf s.regs.rxb[22]
  refine ⟨_, exec_decode_of_passes ((crcOk_iff _).mpr h), rfl, hrssi, ?_, ?_, half_toInt_rssiOf _⟩
  · exact (show -276 ≤ s8 s.regs.rxb[22] - 148 by omega).trans_eq hrssi.symm
  · exact hrssi.trans_le (by omega)

end Sys2Proof.Machine

/-! SUPPORT. The statements of 43_control.md: NOP, CLR_ERR and SRST as steps (R180 to R182), and ILLCMD, which an unassigned byte
sets and which every event but the three that clear it keeps (R183, R202). -/

namespace Sys2Proof.Machine

open Sys2Proof

/-! ## The step on an opcode (R93) -/

/-- An opcode's step applies its command's effect to the registers and to nothing else. -/
theorem step_opcode (s : State) (i : Instr) (rest : List Event) :
    step { s with pending := .bus (.write 0x00 (encode i)) :: rest } =
      .next { s with regs := commandEffect i s.regs, pending := rest } :=
  (step_command s (encode i) rest).trans ((execute_assigned (decodeCommand_encode i) _).trans (exec_eq_next i _))

/-- Settles O29: what CMD reads is NOP's opcode. -/
theorem nopChangesNothing : Obligations.NopChangesNothing :=
  ⟨decodeCommand_encode .nop, fun s rest => ⟨exec_eq_next .nop s, rfl, step_opcode s .nop rest⟩⟩

/-- Settles O30: CLR_ERR's register effect is its flag update. -/
theorem clrErrClearsTheErrorFlags : Obligations.ClrErrClearsTheErrorFlags :=
  ⟨decodeCommand_encode .clrErr, exec_eq_next .clrErr⟩

/-- Settles O2: both steps leave the reset registers, whose STATUS is zero. -/
theorem srstActsAsHardwareReset : Obligations.SrstActsAsHardwareReset := by
  obtain ⟨_, hreset, _⟩ := resetGivesEveryRegisterItsValue
  exact ⟨decodeCommand_encode .srst, fun s rest =>
    ⟨exec_eq_next .srst s, (step_opcode s .srst rest).trans (hreset s rest).symm, everyOffsetReadsItsResetValue 0x02⟩⟩

/-! ## ILLCMD is sticky (R183, R202) -/

/-- A property of the registers that each of a list of events keeps holds after a run over the list. -/
theorem run_keeps {P : Regs → Prop} {es : List Event} (hkeep : ∀ e ∈ es, ∀ r, P r → P (eventRegs e r)) {s : State}
    (hs : P s.regs) (rest : List Event) :
    ∃ t : State, Host.Core.run Sys2Proof.core es.length { s with pending := es ++ rest } = .next t ∧
      P t.regs ∧ t.pending = rest := by
  refine ⟨_, run_events es s rest, ?_, rfl⟩
  refine List.foldlRecOn (motive := fun u : State => P u.regs) es _ hs fun u hu e he => ?_
  rw [eventEffect_regs]
  exact hkeep e he u.regs hu

/-- The row of ILLCMD in the STATUS table, read for a flag that is 1: CLR_ERR and SRST's effect alone clear it. -/
theorem eventRegs_keeps_illcmd {e : Event} (hclrErr : e.command? ≠ some (.assigned .clrErr))
    (hsrst : e.command? ≠ some (.assigned .srst)) {r : Regs} (h : r.status.illcmd = true) :
    (eventRegs e r).status.illcmd = true := by
  obtain ⟨_, hclear⟩ := illcmd_row r e.command?
  rw [eventRegs_status, ← Bool.not_eq_false, hclear h, not_or]
  exact ⟨hclrErr, hsrst⟩

/-- Settles O45: the four ranges are the bytes that decode to ILLEGAL, and stickiness goes event by event. -/
theorem illegalCommandFlagIsSticky : Obligations.IllegalCommandFlagIsSticky := by
  refine ⟨fun s rest v hv => ?sets, fun es s rest hs hes => ?sticky⟩
  case sets =>
    obtain ⟨hranges, _, hstep⟩ := unassignedBytesSetIllcmdOnly
    exact hstep s rest v ((hranges v).mpr hv)
  case sticky =>
    refine run_keeps (P := fun r => r.status.illcmd = true) (fun e he r => ?_) hs rest
    obtain ⟨hclrErr, hsrst, hreset, hduring⟩ := hes e he
    refine eventRegs_keeps_illcmd (mt (Event.isClrErr_iff e).mpr hclrErr) (mt (Event.isReset_iff e).mpr ?_)
    rintro (h | ⟨x, h⟩ | h)
    · exact hreset h
    · exact hduring x h
    · exact hsrst h

end Sys2Proof.Machine

/-! SUPPORT. The statements of 60_exceptions.md: the report and the lifetime of a checksum failure (R201), at most one error event
in a step (R206), and the totality of the step (R216). -/

namespace Sys2Proof.Machine

open Sys2Proof

/-! ## A checksum failure (R201) -/

theorem commandEffect_decode_of_fails {r : Regs} (hfail : ¬ crcOk r.rxb = true) :
    commandEffect .decode r = (discardDecoded r).setCrc (statusCrc r.rxb) := by
  rw [commandEffect, if_neg hfail]

/-- Settles O44: DECODE's effect on a failing frame, and the rows of CRCERR in the STATUS table. -/
theorem checksumFailureIsReportedAndHeld : Obligations.ChecksumFailureIsReportedAndHeld := by
  refine ⟨fun s rest hcrc => ⟨_, step_opcode s .decode rest, ?reported⟩, fun s t e rest hp h => ?held⟩
  case reported =>
    rw [commandEffect_decode_of_fails (mt (crcOk_iff _).mp hcrc)]
    exact ⟨rfl, rfl, rfl, rfl, rfl⟩
  case held =>
    obtain ⟨_, _, _, htable⟩ := flagsChangeOnlyAsTheTableSays
    obtain ⟨_, _, hset, hclear, _⟩ := htable s t e rest hp h
    refine ⟨fun hbefore => (hset hbefore).mp, fun hbefore hafter => ?_⟩
    rcases (hclear hbefore).mp hafter with hpass | hclrErr | hreset | hduring | hsrst
    · exact .inl hpass
    · exact .inr (.inl hclrErr)
    · exact .inr (.inr (.inr (.inl hreset)))
    · exact .inr (.inr (.inr (.inr hduring)))
    · exact .inr (.inr (.inl hsrst))

/-! ## Simultaneous error events (R206) -/

/-- Only DECODE raises CRCERR. -/
theorem decode_of_crcerr_raised {r : Regs} {c : Option Command} (hbefore : r.status.crcerr = false)
    (hafter : (statusAfter r c).crcerr = true) : c = some (.assigned .decode) := by
  obtain ⟨hset, _⟩ := crcerr_row r c
  obtain ⟨hdecode, _⟩ := (hset hbefore).mp hafter
  exact hdecode

/-- Only ILLEGAL raises ILLCMD. -/
theorem illegal_of_illcmd_raised {r : Regs} {c : Option Command} (hbefore : r.status.illcmd = false)
    (hafter : (statusAfter r c).illcmd = true) : c = some .illegal := by
  obtain ⟨hset, _⟩ := illcmd_row r c
  exact (hset hbefore).mp hafter

/-- The zero frame of reset fails its check. -/
theorem not_crcOk_reset : ¬ crcOk State.reset.regs.rxb = true := by decide +kernel

/-- An illegal command and then a DECODE of a failing frame leave both error flags 1: each sets its own and keeps the other's. -/
theorem errors_after_illegal_decode {v : Byte} (hv : decodeCommand v = .illegal) {r : Regs} (hfail : ¬ crcOk r.rxb = true) :
    (eventRegs (commandEvent (encode .decode)) (eventRegs (commandEvent v) r)).status =
      flagChecksumFailure (flagIllegalCommand r.status) := by
  have hillegal : eventRegs (commandEvent v) r = r.setStatus (flagIllegalCommand r.status) :=
    (eventRegs_command v r).trans (executeEffect_illegal hv r)
  rw [hillegal, eventRegs_status]
  exact statusAfter_decode_of_fails (r := r.setStatus (flagIllegalCommand r.status)) hfail

/-- Settles O46: a step has the effect of one command at most, and the two flags are raised by different ones; the run is an
illegal command and a DECODE of the zero frame of reset, which fails. -/
theorem atMostOneErrorEventPerStep : Obligations.AtMostOneErrorEventPerStep := by
  refine ⟨?one, ?both⟩
  case one =>
    rintro s t h ⟨⟨hcrcerr, hcrcerr'⟩, hillcmd, hillcmd'⟩
    rcases step_eq_next.mp h with ⟨_, rfl⟩ | ⟨e, rest, hp, _⟩
    · exact Bool.false_ne_true (hcrcerr.symm.trans hcrcerr')
    · rw [step_regs hp h, eventRegs_status] at hcrcerr' hillcmd'
      have hdecode := decode_of_crcerr_raised hcrcerr hcrcerr'
      have hillegal := illegal_of_illcmd_raised hillcmd hillcmd'
      cases hdecode.symm.trans hillegal
  case both =>
    have hstatus := errors_after_illegal_decode (v := 0x03) rfl (r := State.reset.regs) not_crcOk_reset
    refine ⟨_, run_events [commandEvent 0x03, commandEvent (encode .decode)] State.reset [], ?_⟩
    simp only [List.foldl_cons, List.foldl_nil, State.withPending_regs, eventEffect_regs, hstatus]
    exact ⟨rfl, rfl⟩

/-! ## The step is total (R216) -/

theorem eventEffect_read_reads (off : Offset) (s : State) :
    (eventEffect (.bus (.read off)) s).reads = s.reads ++ [busRead s.regs off] := rfl

theorem eventEffect_write_reads (off : Offset) (v : Byte) (s : State) :
    (eventEffect (.bus (.write off v)) s).reads = s.reads := rfl

/-- Settles O47: an idle step answers the state itself, and every other the effect of the event at the head. -/
theorem everyStepCompletes : Obligations.EveryStepCompletes := by
  intro s
  cases hp : s.pending with
  | nil => exact ⟨s, step_idle hp, hp, nofun, nofun⟩
  | cons e rest =>
    refine ⟨_, (step_event hp).trans (deliver_eq e _), eventEffect_pending e _, fun off rest' he => ?read,
      fun off v rest' he => ?write⟩
    case read =>
      obtain ⟨rfl, _⟩ := List.cons.inj he
      exact ⟨_, eventEffect_read_reads off _⟩
    case write =>
      obtain ⟨rfl, _⟩ := List.cons.inj he
      exact eventEffect_write_reads off v _

end Sys2Proof.Machine

/-! SUPPORT. The statements of 70_reset_and_hazards.md: reset during a transaction (R232), the operand writes that reach no
snapshot (R242), and the accumulator saved and written back around a command (R244). -/

namespace Sys2Proof.Machine

open Sys2Proof

/-! ## Operand writes (R242) -/

/-- TXB, the D_ registers and the flags of two register files agree: what ENCODE and DECODE leave for the host. -/
structure SameResults (r' r : Regs) : Prop where
  txb : r'.txb = r.txb
  decoded : r'.decoded = r.decoded
  status : r'.status = r.status

/-- A write to any offset but CMD's reaches no result. -/
theorem eventRegs_store_sameResults {off : Offset} (hoff : off ≠ 0x00) (v : Byte) {r' r : Regs} (h : SameResults r' r) :
    SameResults (eventRegs (.bus (.write off v)) r') r := by
  obtain ⟨htxb, hdecoded, hstatus⟩ := h
  rw [eventRegs_store hoff]
  exact ⟨(storeByte_txb ..).trans htxb, (storeByte_decoded ..).trans hdecoded, (storeByte_status ..).trans hstatus⟩

/-- Settles O41: neither range holds CMD's offset, and a write anywhere else keeps the results. -/
theorem operandWritesLeaveTheSnapshots : Obligations.OperandWritesLeaveTheSnapshots := by
  intro ws s rest hws
  have hkeep : ∀ e ∈ ws.map (fun w => Event.bus (.write w.1 w.2)), ∀ r,
      SameResults r s.regs → SameResults (eventRegs e r) s.regs := by
    intro e he r hr
    obtain ⟨w, hw, rfl⟩ := List.mem_map.mp he
    have hrange := hws w hw
    exact eventRegs_store_sameResults (by bv_omega) w.2 hr
  obtain ⟨t, hrun, ⟨htxb, hdecoded, hstatus⟩, hpending⟩ := run_keeps hkeep (s := s) ⟨rfl, rfl, rfl⟩ rest
  rw [List.length_map] at hrun
  exact ⟨t, hrun, hpending, htxb, hdecoded, hstatus⟩

/-! ## Saving and restoring the accumulator (R244) -/

/-- Reading both bytes of CRC and then running a command records the bytes that stood there before it. -/
theorem run_save_then_command (s : State) (i : Instr) (rest : List Event) :
    Host.Core.run Sys2Proof.core 3
      { s with pending := [Slot.crcHi, .crcLo].map readEvent ++ commandEvent (encode i) :: rest } =
      .next { s with regs := commandEffect i s.regs, pending := rest,
                     reads := s.reads ++ [highByte s.regs.crc, lowByte s.regs.crc] } := by
  have hreads := run_reads [.crcHi, .crcLo] s (commandEvent (encode i) :: rest)
  refine (run_add_of_next hreads 1).trans ?_
  rw [run_event (e := commandEvent (encode i)) (rest := rest) rfl, eventEffect_command]
  rfl

/-- Writing both bytes of a value to CRC leaves that value there and changes nothing else, whatever CRC held. -/
theorem run_write_crc (t : State) (c : Half) (rest : List Event) :
    Host.Core.run Sys2Proof.core 2
      { t with pending := [(Slot.crcHi, highByte c), (.crcLo, lowByte c)].map storeEvent ++ rest } =
      .next { t with regs := t.regs.setCrc c, pending := rest } := by
  obtain ⟨hsetcrc, _⟩ := loadingPseudoInstructionsLoad t rest
  rw [← setcrc_events]
  exact hsetcrc c

/-- Settles O42: the bytes read are those of CRC before the command, and writing them replaces what the command left in CRC. It
holds for every command; ENCODE and DECODE are those for which it matters. -/
theorem savedAccumulatorIsRestored : Obligations.SavedAccumulatorIsRestored := fun s i rest _ =>
  ⟨_, _, run_save_then_command s i rest, rfl, rfl, run_write_crc _ s.regs.crc rest, rfl⟩

/-! ## Reset during a transaction (R232) -/

/-- Settles O3: reset as a step is R44's, and a reset during a transaction is delivered as the reset alone, but for the byte that
an overlapped read draws. -/
theorem resetDuringATransactionOverwritesIt : Obligations.ResetDuringATransactionOverwritesIt := by
  obtain ⟨_, hreset, _⟩ := resetGivesEveryRegisterItsValue
  refine fun s rest off v => ⟨hreset s rest, ?write, ?read⟩
  case write => exact (step_event (e := .resetDuring (.write off v)) rfl).trans (deliver_eq _ _)
  case read => exact (step_event (e := .resetDuring (.read off)) rfl).trans (deliver_eq _ _)

end Sys2Proof.Machine
